-- ==== Sys2Proof/Word.lean ====
section
/-! DEFINITION. The word types of the engine (rules R6, R8): every register, buffer word and datapath
word is 32 bits wide, a lane (lattice sense) is 64 bits wide, a micro-op word is 16 bits wide. -/
namespace Sys2Proof

/-- A register, buffer or datapath word (rule R6, WORD). -/
abbrev Word := BitVec 32

/-- One of the 25 lanes of the Keccak state, `high : low` (rule R8). -/
abbrev LaneWord := BitVec 64

/-- A micro-op word (rule R70). -/
abbrev UopWord := BitVec 16

end Sys2Proof
end

