-- ==== Sys2Proof/Syntax.lean ====
section
/-! DEFINITION. The sixteen micro-ops (rule R73), one constructor per row of the opcode table. A micro-op's
only operand is the 5-bit round index of IOTA and ROUND (rule R72). -/
namespace Sys2Proof

/-- A micro-op. -/
inductive Instr
  -- Permutation Core, 41_permutation.md
  | theta
  | rhopi
  | chi
  | iota (r : BitVec 5)
  | round (r : BitVec 5)
  | permute
  -- Single-Block Hasher, 42_hasher.md
  | clear
  | absorb
  | pad
  | extract
  | hash
  -- Batch Search Driver, 43_driver.md
  | guard
  | nonce
  | build
  | pack
  | halt
deriving DecidableEq, Repr

end Sys2Proof
end

