-- ==== Sys2Proof/WellFormed.lean ====
section
/-! DEFINITION. Which instructions have a word: a round index is one of the 24 rounds (rules R72, R74). -/
namespace Sys2Proof

/-- The legal round indices, 0 to 23 (rule R72). -/
def roundInRange (r : BitVec 5) : Bool := decide (r.toNat < 24)

/-- Every operand has a value the encoding admits (rule R74, clause 3). -/
def Instr.wellFormed : Instr → Bool
  | .iota r => roundInRange r
  | .round r => roundInRange r
  | .theta => true
  | .rhopi => true
  | .chi => true
  | .permute => true
  | .clear => true
  | .absorb => true
  | .pad => true
  | .extract => true
  | .hash => true
  | .guard => true
  | .nonce => true
  | .build => true
  | .pack => true
  | .halt => true

end Sys2Proof
end

