-- ==== Sys2Proof/Decode.lean ====
section
/-! DEFINITION. Decoding of micro-op words, total on all 65536 words and on every TEST_UOP value, each
illegal one rejected by name (rules R70 to R77), and after it the encoder. -/
namespace Sys2Proof

/-- OPC, bits 15:8 (rule R71). -/
def opcField (w : UopWord) : BitVec 8 := w.extractLsb' 8 8

/-- Z, bits 7:5, reserved, must be 000 (rule R71). -/
def zField (w : UopWord) : BitVec 3 := w.extractLsb' 5 3

/-- RND, bits 4:0, the round index (rule R71). -/
def rndField (w : UopWord) : BitVec 5 := w.extractLsb' 0 5

/-- Why a word is illegal. Every one of them is reported as ILLEGAL_UOP (rules R75 to R77). -/
inductive Reject
  /-- OPC is none of the 16 values of rule R73 (rule R76). -/
  | reservedOpcode
  /-- Z is not 000 (rule R74, clause 2). -/
  | zNonZero
  /-- RND is 24 to 31 in IOTA or ROUND (rule R74, clause 3). -/
  | roundOutOfRange
  /-- RND is not 0 in a micro-op that has no operand (rule R74, clause 3). -/
  | rndNonZero
  /-- Bits 31:16 of a TEST_UOP value are not 0 (rule R77). -/
  | upperBitsNonZero
deriving DecidableEq, Repr

/-- What decoding answers. -/
inductive Decoded
  | legal (i : Instr)
  | illegal (why : Reject)
deriving DecidableEq, Repr

/-- A micro-op without operand: RND must be 0. -/
def decodePlain (i : Instr) (rnd : BitVec 5) : Decoded :=
  if rnd = 0 then .legal i else .illegal .rndNonZero

/-- IOTA and ROUND: RND must be 0 to 23. -/
def decodeRound (i : BitVec 5 → Instr) (rnd : BitVec 5) : Decoded :=
  if roundInRange rnd then .legal (i rnd) else .illegal .roundOutOfRange

/-- The opcode map of rule R73. -/
def decodeOpc (opc : BitVec 8) (rnd : BitVec 5) : Decoded :=
  match opc with
  | 0x10#8 => decodePlain .theta rnd
  | 0x11#8 => decodePlain .rhopi rnd
  | 0x12#8 => decodePlain .chi rnd
  | 0x13#8 => decodeRound .iota rnd
  | 0x14#8 => decodeRound .round rnd
  | 0x15#8 => decodePlain .permute rnd
  | 0x20#8 => decodePlain .clear rnd
  | 0x21#8 => decodePlain .absorb rnd
  | 0x22#8 => decodePlain .pad rnd
  | 0x23#8 => decodePlain .extract rnd
  | 0x24#8 => decodePlain .hash rnd
  | 0x30#8 => decodePlain .guard rnd
  | 0x31#8 => decodePlain .nonce rnd
  | 0x32#8 => decodePlain .build rnd
  | 0x33#8 => decodePlain .pack rnd
  | 0x3F#8 => decodePlain .halt rnd
  | _ => .illegal .reservedOpcode

/-- Decode a micro-op word (rule R74). -/
def decode (w : UopWord) : Decoded :=
  if zField w = 0 then decodeOpc (opcField w) (rndField w) else .illegal .zNonZero

/-- Decode the value of a TEST_UOP write: bits 31:16 must be 0, bits 15:0 are the word (rule R77). -/
def decodeTestUop (v : Word) : Decoded :=
  if v.extractLsb' 16 16 = 0 then decode (v.extractLsb' 0 16) else .illegal .upperBitsNonZero

/-- The instruction, if the word was legal. -/
def Decoded.instr? : Decoded → Option Instr
  | .legal i => some i
  | .illegal _ => none

/-- The value a host writes to TEST_UOP to hand over the instruction whose bits are `w`, `nbits` of them
given and every bit above them 0 (rules R70, R77: a micro-op is one 16-bit word, in bits 15:0). -/
def tableWordValue (nbits w : Nat) : Word := BitVec.ofNat 32 (w % 2 ^ nbits)

/-- The instruction the decoder reads from a word numbered as the opcode table numbers it. -/
def decodeTableWord (nbits w : Nat) : Option Instr := (decodeTestUop (tableWordValue nbits w)).instr?

/-- A word of the one format of rule R70, with Z = 000. -/
def uopWord (opc : BitVec 8) (rnd : BitVec 5) : UopWord := opc ++ (0#3 ++ rnd)

/-- The word of a well-formed instruction (rules R70, R73). -/
def encode : Instr → UopWord
  | .theta => uopWord 0x10 0
  | .rhopi => uopWord 0x11 0
  | .chi => uopWord 0x12 0
  | .iota r => uopWord 0x13 r
  | .round r => uopWord 0x14 r
  | .permute => uopWord 0x15 0
  | .clear => uopWord 0x20 0
  | .absorb => uopWord 0x21 0
  | .pad => uopWord 0x22 0
  | .extract => uopWord 0x23 0
  | .hash => uopWord 0x24 0
  | .guard => uopWord 0x30 0
  | .nonce => uopWord 0x31 0
  | .build => uopWord 0x32 0
  | .pack => uopWord 0x33 0
  | .halt => uopWord 0x3F 0

/-! Every constructor's word written out from the encodings of rules R70 and R73 (fields OPC Z RND). -/

theorem decode_theta : decode 0b00010000_000_00000 = .legal .theta := by decide
theorem decode_rhopi : decode 0b00010001_000_00000 = .legal .rhopi := by decide
theorem decode_chi : decode 0b00010010_000_00000 = .legal .chi := by decide
theorem decode_iota : decode 0b00010011_000_00101 = .legal (.iota 5) := by decide
theorem decode_round : decode 0b00010100_000_10111 = .legal (.round 23) := by decide
theorem decode_permute : decode 0b00010101_000_00000 = .legal .permute := by decide
theorem decode_clear : decode 0b00100000_000_00000 = .legal .clear := by decide
theorem decode_absorb : decode 0b00100001_000_00000 = .legal .absorb := by decide
theorem decode_pad : decode 0b00100010_000_00000 = .legal .pad := by decide
theorem decode_extract : decode 0b00100011_000_00000 = .legal .extract := by decide
theorem decode_hash : decode 0b00100100_000_00000 = .legal .hash := by decide
theorem decode_guard : decode 0b00110000_000_00000 = .legal .guard := by decide
theorem decode_nonce : decode 0b00110001_000_00000 = .legal .nonce := by decide
theorem decode_build : decode 0b00110010_000_00000 = .legal .build := by decide
theorem decode_pack : decode 0b00110011_000_00000 = .legal .pack := by decide
theorem decode_halt : decode 0b00111111_000_00000 = .legal .halt := by decide

end Sys2Proof
end

