-- ==== Sys2Proof/Config.lean ====
section
/-! DEFINITION. What is fixed for one machine (rule R7), and the free values: constants with no body, so
that nothing can be proved of what they are. -/
namespace Sys2Proof

/-- Which half of lane L word 2L holds (rules R7, R10; 92_eei_decisions.md D1). -/
inductive WordOrder
  /-- Word 2L holds bits 31:0 of lane L (decided). -/
  | lowFirst
  /-- Word 2L holds bits 63:32 of lane L (the literal wording of DOC0 §3). -/
  | highFirst
deriving DecidableEq, Repr

/-- The parameters the spec leaves to the machine (rule R7). They are constants: no step changes them. -/
structure Params where
  /-- RESULTS_WORDS, the size of the results space in words, 0 to 2^32 (rules R7, R48). -/
  resultsWords : Fin (2 ^ 32 + 1)
  /-- WORD_ORDER (rules R7, R10). -/
  wordOrder : WordOrder
deriving DecidableEq, Repr

/-- OPEN parameter (rule R7, I10): the RESULTS_WORDS of the machine that comes out of reset.
DESIGN CHOICE (log 5), safe: no value can be proved of it. -/
opaque Config.resultsWords : Fin (2 ^ 32 + 1)

/-- Free value (rule R159, I14): which of the agents that could move at a given tick does.
DESIGN CHOICE (log 7), safe. -/
opaque Config.schedule : Nat → Nat

/-- Free value (rule R49, I7): what a host read of an UNSPECIFIED word returns at a given tick.
DESIGN CHOICE (log 3), safe. -/
opaque Config.freeWord : Nat → Word

/-- Free value (rule R61, I8): whether a host read of RES at a given tick while BUSY = 1 returns the
word as it stood at START. DESIGN CHOICE (log 8), safe. -/
opaque Config.raceReadsOld : Nat → Bool

/-- Free value (rule R49): the unknown value that an UNSPECIFIED register holds after a reset; the arguments
are the tick of the reset and the REG address of the register. DESIGN CHOICE (log 1), safe: no value can be
proved of it. -/
opaque Config.resetWord : Nat → Nat → Word

/-- Free value (rule R158, D36): what a register of a fresh lane unit holds at launch; the arguments are
the tick of the START, the lane execution's index and the number of the register.
DESIGN CHOICE (log 9), safe. -/
opaque Config.launchWord : Nat → Nat → Nat → Word

end Sys2Proof
end

