-- ==== Sys2Proof/Machine/State.lean ====
section
/-! DEFINITION. The state of the engine, as plain data, and its value right after reset
(10_state.md; reset: rules R49, R210). -/
namespace Sys2Proof.Machine

/-- The registers of the host register block and of the test windows, by name (rule R35). -/
inductive Reg
  | ctrl
  | status
  | launchWidth
  | resultsWords
  | testUop
  | testLaneIndex
  | testFlags
  | baseNonceLo
  | baseNonceHi
  | laneCount
  | patternValue
  | patternType
  | patternLength
  | patternReserved
  | testIn (k : Fin 8)
  | testDig (k : Fin 8)
  | testNonceLo
  | testNonceHi
  | testS (k : Fin 50)
  /-- An address of the map that holds no register (rule R46). -/
  | reserved
deriving DecidableEq, Repr

/-- One word of the results space: its word address and its value. The spec has no bytes (rule R50). -/
abbrev ResCell := Nat × Word

/-- The results space (rule R48) in canonical form: addresses strictly rising. A word that is not listed
has not been written since reset and has no value (rule R49; log 4). -/
abbrev Memory := List ResCell

/-- The canonical form: addresses strictly rising. No entry can equal what an unlisted address reads as,
since that is no value. -/
abbrev Memory.wf (m : Memory) : Prop := (m.map Prod.fst).Pairwise (· < ·)

/-- The registers of a lane unit (rule R22), but for upc, which only dispatch lane units have. -/
structure LaneUnit where
  /-- S[0..49], the Keccak state (rule R24). -/
  S : Vector Word 50
  /-- IN[0..7], the input block (rule R25). -/
  IN : Vector Word 8
  /-- DIG[0..7], the digest (rule R26). -/
  DIG : Vector Word 8
  /-- NONCE_LO (rule R27). -/
  nonceLo : Word
  /-- NONCE_HI (rule R27). -/
  nonceHi : Word
  /-- LANE_INDEX (rule R28). -/
  laneIndex : Word
  /-- INACTIVE (rule R29). -/
  inactive : Bool
deriving DecidableEq, Repr

/-- A live dispatch lane execution: its lane unit and its micro-program counter (rules R30, R151). -/
structure LaneExec where
  unit : LaneUnit
  upc : BitVec 4
deriving DecidableEq, Repr

/-- The lane unit that executes a micro-op (rules R22, R23): the test unit, or the dispatch lane unit with
a given LANE_INDEX. -/
inductive UnitId
  | test
  | lane (i : Word)
deriving DecidableEq, Repr

/-- What the host, and the platform's reset, can do to the engine (rules R195, R210). -/
inductive HostEvent
  /-- A host read of one REG word. -/
  | readReg (a : BitVec 8)
  /-- A host write of one REG word. -/
  | writeReg (a : BitVec 8) (v : Word)
  /-- A host read of one RES word. -/
  | readRes (a : Nat)
  /-- A host write of one RES word. -/
  | writeRes (a : Nat) (v : Word)
  /-- The reset event (rule R210). -/
  | reset
deriving DecidableEq, Repr

/-- The state of the engine. -/
structure State where
  /-- The parameters (rule R7): constants of the machine, never changed by a step (log 5). -/
  params : Params
  /-- STATUS.BUSY (rule R37). -/
  busy : Bool
  /-- STATUS.DONE (rule R37). -/
  done : Bool
  /-- STATUS.ERR (rule R37). -/
  err : Bool
  /-- STATUS.ERRCODE (rule R37). -/
  errCode : BitVec 4
  /-- LAUNCH_WIDTH (rule R38). -/
  launchWidth : Word
  /-- BASE_NONCE_LO (rule R42). -/
  baseNonceLo : Word
  /-- BASE_NONCE_HI (rule R42). -/
  baseNonceHi : Word
  /-- LANE_COUNT (rule R43). -/
  laneCount : Word
  /-- PATTERN_VALUE (rule R44). -/
  patternValue : Word
  /-- PATTERN_TYPE (rule R44). -/
  patternType : Word
  /-- PATTERN_LENGTH (rule R44). -/
  patternLength : Word
  /-- PATTERN_RESERVED (rule R44). -/
  patternReserved : Word
  /-- The registers that are UNSPECIFIED: not written since reset (rule R49; log 3). -/
  unwritten : List Reg
  /-- The test unit (rule R23). -/
  test : LaneUnit
  /-- The live lane executions of the dispatch in flight (rules R22, R158). -/
  lanes : List LaneExec
  /-- RES, the results space (rule R48). -/
  res : Memory
  /-- RES as it stood at the last accepted START (rule R61). -/
  resAtStart : Memory
  /-- The lane unit that this step's micro-op executes on (the model's own; log 12). -/
  running : UnitId
  /-- The host's accesses still to come, oldest first (rules R63, R195; the model's own; log 10). -/
  inbox : List HostEvent
  /-- The words that host reads have returned, oldest first (the model's own; log 10). -/
  replies : List Word
  /-- The counter to which the free values are applied (the model's own; log 11). -/
  tick : Nat
deriving DecidableEq, Repr

/-- Why the machine can stop with a fault. The step raises none of them in a state that a run reaches. -/
inductive Fault
  /-- A live lane execution's upc is outside 0..9, where the microprogram ROM holds no micro-op (rule R30).
  Raised by a lane step. Safe: the model stops where the spec says nothing. -/
  | upcOutOfRom
  /-- The unit a micro-op is to execute on is no live lane execution.
  Raised by a lane step and by every meaning. Safe: the model stops where the spec says nothing. -/
  | noSuchLane
  /-- The engine is to read a register that is UNSPECIFIED (rules R49, R213, I6). Raised by `strictStep` only,
  never by `step` (log 2). Safe: no claim covers such a run. -/
  | unspecifiedRead
deriving DecidableEq, Repr

/-- Why the machine can refuse an instruction. -/
inductive Refusal
  /-- The instruction has no meaning in this model. Raised by exec's refused arms, of which there are
  none. Safe: the model stops. -/
  | notModelled (mnemonic : String)
deriving DecidableEq, Repr

/-- The registers that are UNSPECIFIED right after reset (rule R49). -/
def Reg.unspecifiedAtReset : List Reg :=
  [.launchWidth, .testLaneIndex, .baseNonceLo, .baseNonceHi, .laneCount,
   .patternValue, .patternType, .patternLength, .patternReserved]
  ++ (List.finRange 8).map .testIn ++ (List.finRange 8).map .testDig
  ++ [.testNonceLo, .testNonceHi] ++ (List.finRange 50).map .testS

/-- The test unit after a reset at a given tick: INACTIVE = 0 (rule R49). Every other register is UNSPECIFIED
there: it holds an unknown value, the free value of its window's REG address (log 1), and stands in
`unwritten`. -/
def LaneUnit.afterReset (tick : Nat) : LaneUnit where
  S := Vector.ofFn fun k => Config.resetWord tick (0x40 + k.val)
  IN := Vector.ofFn fun k => Config.resetWord tick (0x10 + k.val)
  DIG := Vector.ofFn fun k => Config.resetWord tick (0x18 + k.val)
  nonceLo := Config.resetWord tick 0x20
  nonceHi := Config.resetWord tick 0x21
  laneIndex := Config.resetWord tick 0x05
  inactive := false

/-- The engine after a reset at a given tick (rules R49, R210, R211). STATUS is 0, nothing of RES is written,
no lane execution exists. Every UNSPECIFIED register holds an unknown value, the free value of its REG address
(log 1). The last four fields are the model's own (logs 10 to 12). -/
def State.afterReset (params : Params) (tick : Nat) : State where
  params := params
  busy := false
  done := false
  err := false
  errCode := 0
  launchWidth := Config.resetWord tick 0x02
  baseNonceLo := Config.resetWord tick 0x08
  baseNonceHi := Config.resetWord tick 0x09
  laneCount := Config.resetWord tick 0x0A
  patternValue := Config.resetWord tick 0x0C
  patternType := Config.resetWord tick 0x0D
  patternLength := Config.resetWord tick 0x0E
  patternReserved := Config.resetWord tick 0x0F
  unwritten := Reg.unspecifiedAtReset
  test := LaneUnit.afterReset tick
  lanes := []
  res := []
  resAtStart := []
  running := .test
  inbox := []
  replies := []
  tick := tick

/-- The engine right after reset, with the parameters of logs 5 and 6. -/
def State.reset : State := State.afterReset { resultsWords := Config.resultsWords, wordOrder := .lowFirst } 0

end Sys2Proof.Machine
end

