-- ==== Sys2Proof/Machine/Ops.lean ====
section
/-! DEFINITION. The named operations: halves of a lane and the rotate (rules R8, R100, R101), the results
space (rules R48, R55), the executing lane unit and its upc (rules R22, R30, R151), the UNSPECIFIED marks
(rule R49), and raising and clearing an error, this engine's only exception mechanism (rules R13, R37,
R180 to R185). -/
namespace Sys2Proof.Machine

/-! ## Halves and the rotate -/

/-- `v[63:32]` (rule R8). -/
def hiHalf (v : LaneWord) : Word := v.extractLsb' 32 32

/-- `v[31:0]` (rule R8). -/
def loHalf (v : LaneWord) : Word := v.extractLsb' 0 32

/-- `high : low` (rule R8). -/
def joinHalves (high low : Word) : LaneWord := high ++ low

/-- The 64-bit rotate left of rule R100, for `s` from 0 to 63. -/
def rotl64 (v : LaneWord) (s : Nat) : LaneWord :=
  if s = 0 then v else (v <<< s) ||| (v >>> (64 - s))

/-- The rotate by 0 to 31 of rule R101 after its swap: the guard on `s = 0`, then two 32-bit shifts by
amounts in 1..31 (rule R215). -/
def rotlHalfShift (high low : Word) (s : Nat) : Word × Word :=
  if s = 0 then (high, low)
  else ((high <<< s) ||| (low >>> (32 - s)), (low <<< s) ||| (high >>> (32 - s)))

/-- `rotl_half` of rule R101, as the datapath computes it: 32-bit shifts only, with both guards. -/
def rotlHalf (high low : Word) (s : Nat) : Word × Word :=
  if 32 ≤ s then rotlHalfShift low high (s - 32) else rotlHalfShift high low s

/-- The datapath's rotate of a lane, on its halves (rule R101). -/
def datapathRotl (v : LaneWord) (s : Nat) : LaneWord :=
  joinHalves (rotlHalf (hiHalf v) (loHalf v) s).1 (rotlHalf (hiHalf v) (loHalf v) s).2

/-! ## The results space -/

/-- The value of RES word `a`, if it has been written since reset. -/
def Memory.read (m : Memory) (a : Nat) : Option Word :=
  match m with
  | [] => none
  | c :: rest => if c.1 = a then some c.2 else Memory.read rest a

/-- Write RES word `a`; keeps the canonical form. -/
def Memory.write (m : Memory) (a : Nat) (v : Word) : Memory :=
  match m with
  | [] => [(a, v)]
  | c :: rest =>
    if a < c.1 then (a, v) :: c :: rest
    else if c.1 = a then (a, v) :: rest
    else c :: Memory.write rest a v

/-- Write consecutive words from address `a` on, one single-word access after the other (rules R54, R55). -/
def Memory.writeWords (m : Memory) (a : Nat) (vs : List Word) : Memory :=
  match vs with
  | [] => m
  | v :: rest => Memory.writeWords (Memory.write m a v) (a + 1) rest

/-! ## Errors -/

/-- HOST_WRITE_BUSY (rule R181). -/
def errHostWriteBusy : BitVec 4 := 1
/-- ILLEGAL_UOP (rule R181). -/
def errIllegalUop : BitVec 4 := 2
/-- RESULTS_TOO_SMALL (rule R181). -/
def errResultsTooSmall : BitVec 4 := 3
/-- RESULTS_OUT_OF_BOUNDS (rule R181). -/
def errResultsOutOfBounds : BitVec 4 := 4

/-- `raise Err(code)`: the first code is kept, ERR is set, nothing else changes (rules R13, R184). -/
def State.raise (s : State) (code : BitVec 4) : State :=
  { s with errCode := if s.err then s.errCode else code, err := true }

/-- The return from an error, with the rest of a STATUS write: bit 1 clears DONE, bit 2 clears ERR and
ERRCODE, every other bit is ignored (rules R37, R185). -/
def State.writeStatus (s : State) (v : Word) : State :=
  { s with
    done := s.done && !v.getLsbD 1
    err := s.err && !v.getLsbD 2
    errCode := if v.getLsbD 2 then 0 else s.errCode }

/-! ## The executing lane unit -/

/-- The live lane execution with LANE_INDEX `i` (rules R28, R191). -/
def State.lane? (s : State) (i : Word) : Option LaneExec :=
  s.lanes.find? fun l => l.unit.laneIndex == i

/-- The lane unit this step's micro-op executes on (rule R22). -/
def State.unit? (s : State) : Option LaneUnit :=
  match s.running with
  | .test => some s.test
  | .lane i => (s.lane? i).map (·.unit)

/-- Change the live lane execution with LANE_INDEX `i` and no other (rule R22). -/
def State.modifyLane (s : State) (i : Word) (f : LaneExec → LaneExec) : State :=
  { s with lanes := s.lanes.map fun l => if l.unit.laneIndex = i then f l else l }

/-- Give the executing lane unit new register values. -/
def State.setUnit (s : State) (u : LaneUnit) : State :=
  match s.running with
  | .test => { s with test := u }
  | .lane i => s.modifyLane i fun l => { l with unit := u }

/-- `upc <- n` on a dispatch lane unit (rule R14); the test unit has no upc (rule R23). -/
def State.setUpc (s : State) (n : BitVec 4) : State :=
  match s.running with
  | .test => s
  | .lane i => s.modifyLane i fun l => { l with upc := n }

/-- `upc <- upc + 1` on a dispatch lane unit (rules R30, R151); the test unit has no upc. -/
def State.advance (s : State) : State :=
  match s.running with
  | .test => s
  | .lane i => s.modifyLane i fun l => { l with upc := l.upc + 1 }

/-- `end`: the executing dispatch lane execution retires, its lane unit is discarded (rules R14, R156);
nothing on the test unit. -/
def State.endLane (s : State) : State :=
  match s.running with
  | .test => s
  | .lane i => { s with lanes := s.lanes.filter fun l => l.unit.laneIndex != i }

/-- The registers `p` have been written (rule R49). -/
def State.markWritten (s : State) (p : Reg → Bool) : State :=
  { s with unwritten := s.unwritten.filter fun r => !p r }

/-- The executing unit's registers `p` have been written; only the test unit's have windows in REG
(rule R45), so only they carry marks. -/
def State.markUnit (s : State) (p : Reg → Bool) : State :=
  match s.running with
  | .test => s.markWritten p
  | .lane _ => s

/-! ## The shape of a meaning -/

/-- What executing one micro-op answers. -/
abbrev Result := Host.Outcome State Fault Refusal

/-- Execute on the executing lane unit; without one there is nothing to execute on. -/
def State.onUnit (s : State) (k : LaneUnit → State) : Result :=
  match s.unit? with
  | some u => .next (k u)
  | none => .fault .noSuchLane

/-- A micro-op that changes registers of its lane unit, writing the registers `p`, and advances upc
(rules R102, R151). -/
def State.updateUnit (s : State) (f : LaneUnit → LaneUnit) (p : Reg → Bool) : Result :=
  s.onUnit fun u => ((s.setUnit (f u)).markUnit p).advance

end Sys2Proof.Machine
end

