-- ==== Sys2Proof/Machine/Operands.lean ====
section
/-! DEFINITION. Where the micro-ops and the host find their operands: the lane view of S (rule R10), the
read-only tables and the microprogram ROM (rules R32, R33, R150), the REG map (rules R35 to R46), and the
two byte views of words (rules R52, R53). -/
namespace Sys2Proof.Machine

/-! ## The lane view of S -/

/-- The 25 lanes of the Keccak state, lane L at index L. -/
abbrev Lanes := Vector LaneWord 25

/-- HI(L), the index of the word that holds bits 63:32 of lane L (rule R10). -/
def hiIndex (wo : WordOrder) (L : Fin 25) : Fin 50 :=
  match wo with
  | .lowFirst => ⟨2 * L.val + 1, by omega⟩
  | .highFirst => ⟨2 * L.val, by omega⟩

/-- LO(L), the index of the word that holds bits 31:0 of lane L (rule R10). -/
def loIndex (wo : WordOrder) (L : Fin 25) : Fin 50 :=
  match wo with
  | .lowFirst => ⟨2 * L.val, by omega⟩
  | .highFirst => ⟨2 * L.val + 1, by omega⟩

/-- `lane(L)` (rule R10). -/
def lane (wo : WordOrder) (S : Vector Word 50) (L : Fin 25) : LaneWord :=
  joinHalves (S.get (hiIndex wo L)) (S.get (loIndex wo L))

/-- All lanes of S. -/
def toLanes (wo : WordOrder) (S : Vector Word 50) : Lanes := Vector.ofFn (lane wo S)

/-- The lane that word k of S belongs to: lane L occupies the words 2L and 2L+1 (rule R10). -/
def laneOfWord (k : Fin 50) : Fin 25 := ⟨k.val / 2, by omega⟩

/-- The half of its lane that word k of S holds (rule R10). -/
def halfOf (wo : WordOrder) (k : Fin 50) (v : LaneWord) : Word :=
  if k = hiIndex wo (laneOfWord k) then hiHalf v else loHalf v

/-- S with every lane set, `setlane(L, A[L])` for each L (rule R10). -/
def ofLanes (wo : WordOrder) (A : Lanes) : Vector Word 50 :=
  Vector.ofFn fun k => halfOf wo k (A.get (laneOfWord k))

/-- `x = L mod 5` (rule R10). -/
def xOf (L : Fin 25) : Fin 5 := ⟨L.val % 5, by omega⟩

/-- `y = L div 5` (rule R10). -/
def yOf (L : Fin 25) : Fin 5 := ⟨L.val / 5, by omega⟩

/-- `L = x + 5*y` (rule R10). -/
def laneAt (x y : Fin 5) : Fin 25 := ⟨x.val + 5 * y.val, by omega⟩

/-! ## Read-only tables -/

/-- The round-constant table as the engine stores it: entry r is the pair RC_HI[r], RC_LO[r] (rule R32). -/
def roundConstantHalves : Vector (Word × Word) 24 :=
  #v[(0x0000_0000, 0x0000_0001), (0x0000_0000, 0x0000_8082), (0x8000_0000, 0x0000_808A),
    (0x8000_0000, 0x8000_8000), (0x0000_0000, 0x0000_808B), (0x0000_0000, 0x8000_0001),
    (0x8000_0000, 0x8000_8081), (0x8000_0000, 0x0000_8009), (0x0000_0000, 0x0000_008A),
    (0x0000_0000, 0x0000_0088), (0x0000_0000, 0x8000_8009), (0x0000_0000, 0x8000_000A),
    (0x0000_0000, 0x8000_808B), (0x8000_0000, 0x0000_008B), (0x8000_0000, 0x0000_8089),
    (0x8000_0000, 0x0000_8003), (0x8000_0000, 0x0000_8002), (0x8000_0000, 0x0000_0080),
    (0x0000_0000, 0x0000_800A), (0x8000_0000, 0x8000_000A), (0x8000_0000, 0x8000_8081),
    (0x8000_0000, 0x0000_8080), (0x0000_0000, 0x8000_0001), (0x8000_0000, 0x8000_8008)]

/-- `RC[r] = RC_HI[r] : RC_LO[r]` (rule R32). -/
def roundConstant (r : Fin 24) : LaneWord :=
  joinHalves (roundConstantHalves.get r).1 (roundConstantHalves.get r).2

/-- RHOPI_TAB: ROT in entries 0..23, TGT in entries 24..47 (rule R33). -/
def rhoPiTable : Vector Nat 48 := #v[
  1, 3, 6, 10, 15, 21, 28, 36, 45, 55, 2, 14, 27, 41, 56, 8, 25, 43, 62, 18, 39, 61, 20, 44,
  10, 7, 11, 17, 18, 3, 5, 16, 8, 21, 24, 4, 15, 23, 19, 13, 12, 2, 20, 14, 22, 9, 6, 1]

/-- `ROT[i] = RHOPI_TAB[i]` (rule R33). -/
def rotAmount (i : Fin 24) : Nat := rhoPiTable[i.val]

/-- `TGT[i] = RHOPI_TAB[24 + i]` (rule R33); every entry is a lane number. -/
def targetLane (i : Fin 24) : Fin 25 := Fin.ofNat 25 rhoPiTable[24 + i.val]

/-- The lane microprogram ROM (rule R150). -/
def microprogram : List UopWord :=
  [0x3000, 0x3100, 0x3200, 0x2000, 0x2100, 0x2200, 0x1500, 0x2300, 0x3300, 0x3F00]

/-- The ROM entry at upc, if there is one (rule R151). -/
def romWord (upc : BitVec 4) : Option UopWord := microprogram[upc.toNat]?

/-! ## The register block -/

/-- A window of the REG map: the addresses from `base` on, or no register (rules R35, R46). -/
def regWindow (n : Nat) : Reg :=
  if h : 0x10 ≤ n ∧ n < 0x18 then .testIn ⟨n - 0x10, by omega⟩
  else if h : 0x18 ≤ n ∧ n < 0x20 then .testDig ⟨n - 0x18, by omega⟩
  else if h : 0x40 ≤ n ∧ n < 0x72 then .testS ⟨n - 0x40, by omega⟩
  else .reserved

/-- The register at a REG address (rule R35). -/
def regAt (a : BitVec 8) : Reg :=
  match a with
  | 0x00#8 => .ctrl
  | 0x01#8 => .status
  | 0x02#8 => .launchWidth
  | 0x03#8 => .resultsWords
  | 0x04#8 => .testUop
  | 0x05#8 => .testLaneIndex
  | 0x06#8 => .testFlags
  | 0x08#8 => .baseNonceLo
  | 0x09#8 => .baseNonceHi
  | 0x0A#8 => .laneCount
  | 0x0C#8 => .patternValue
  | 0x0D#8 => .patternType
  | 0x0E#8 => .patternLength
  | 0x0F#8 => .patternReserved
  | 0x20#8 => .testNonceLo
  | 0x21#8 => .testNonceHi
  | _ => regWindow a.toNat

/-- Is the register one of the test unit's S[k] with `p k` (rule R45)? -/
def Reg.isS (p : Nat → Bool) : Reg → Bool
  | .testS k => p k.val
  | _ => false

/-- Is the register one of the test unit's IN words (rule R45)? -/
def Reg.isIn : Reg → Bool
  | .testIn _ => true
  | _ => false

/-- Is the register one of the test unit's DIG words (rule R45)? -/
def Reg.isDig : Reg → Bool
  | .testDig _ => true
  | _ => false

/-- Is the register one of the test unit's two nonce words (rule R45)? -/
def Reg.isNonce : Reg → Bool
  | .testNonceLo => true
  | .testNonceHi => true
  | _ => false

/-! ## Byte views, derived from words only (rule R51) -/

/-- Byte `b` of a word counted from its least significant byte. -/
def byteLe (v : Word) (b : Nat) : BitVec 8 := v.extractLsb' (8 * b) 8

/-- `d[j]`, the digest's byte string in the Keccak byte view (rule R52). -/
def digestByte (D : Vector Word 8) (j : Fin 32) : BitVec 8 := byteLe (D.get ⟨j.val / 4, by omega⟩) (j.val % 4)

/-- `keccak_byte(j)`, the state's byte string (rule R52). -/
def keccakByte (S : Vector Word 50) (j : Fin 200) : BitVec 8 := byteLe (S.get ⟨j.val / 4, by omega⟩) (j.val % 4)

/-- `collab_byte(i)`, the collaborator's view of a digest (rule R53). -/
def collabByte (D : Vector Word 8) (i : Fin 32) : BitVec 8 := byteLe (D.get ⟨i.val / 4, by omega⟩) (3 - i.val % 4)

end Sys2Proof.Machine
end

