-- ==== Sys2Proof/Machine/Flags.lean ====
section
/-! DEFINITION. The one flag of a lane unit, INACTIVE (rules R29, R152), the carry of the nonce addition
(rule R153), and the words in which the host reads flags: STATUS and TEST_FLAGS (rules R35, R37). -/
namespace Sys2Proof.Machine

/-- INACTIVE as GUARD computes it: `LANE_INDEX >=u LANE_COUNT` (rule R152). -/
def guardFlag (laneIndex laneCount : Word) : Bool := decide (laneCount ≤ laneIndex)

/-- Did the 32-bit addition that gave `sum` wrap? Detected as `sum <u addend` (rule R153). -/
def addCarry (sum addend : Word) : Bool := decide (sum < addend)

/-- One flag in the least significant bit of a word. -/
def flagWord (b : Bool) : Word := if b then 1 else 0

/-- STATUS as the host reads it: BUSY bit 0, DONE bit 1, ERR bit 2, ERRCODE bits 7:4, every other
bit 0 (rule R37). -/
def State.statusWord (s : State) : Word :=
  flagWord s.busy ||| (flagWord s.done <<< 1) ||| (flagWord s.err <<< 2)
    ||| (s.errCode.setWidth 32 <<< 4)

/-- TEST_FLAGS as the host reads it: INACTIVE in bit 0 (rules R35, R41). -/
def State.testFlagsWord (s : State) : Word := flagWord s.test.inactive

end Sys2Proof.Machine
end

