-- ==== Sys2Proof/Machine/Permutation.lean ====
section
/-! DEFINITION. The permutation micro-ops (41_permutation.md, rules R102 to R108): THETA, RHOPI, CHI, IOTA,
ROUND, PERMUTE. -/
namespace Sys2Proof.Machine

/-! ## The steps, on lanes -/

/-- `C[x]`, the parity of column x (rule R103). -/
def columnParity (A : Lanes) (x : Fin 5) : LaneWord :=
  A.get (laneAt x 0) ^^^ A.get (laneAt x 1) ^^^ A.get (laneAt x 2) ^^^ A.get (laneAt x 3)
    ^^^ A.get (laneAt x 4)

/-- The Theta step: all parities from the state before it, then `t` into every lane of each column
(rules R103, R217). -/
def thetaLanes (A : Lanes) : Lanes :=
  let C : Vector LaneWord 5 := Vector.ofFn (columnParity A)
  let t : Vector LaneWord 5 := Vector.ofFn fun x => C.get (x + 4) ^^^ datapathRotl (C.get (x + 1)) 1
  Vector.ofFn fun L => A.get L ^^^ t.get (xOf L)

/-- One step of the Rho-Pi walk: what is carried, rotated, goes into lane TGT[i], whose value is carried on
(rule R104). -/
def rhoPiStep (carried : LaneWord × Lanes) (i : Fin 24) : LaneWord × Lanes :=
  (carried.2.get (targetLane i), carried.2.set (targetLane i) (datapathRotl carried.1 (rotAmount i)))

/-- The combined Rho and Pi steps: the walk in table order, starting with lane 1 carried (rules R104,
R218). -/
def rhoPiLanes (A : Lanes) : Lanes := ((List.finRange 24).foldl rhoPiStep (A.get 1, A)).2

/-- The Chi step, every term from the row's values before it (rules R105, R216). -/
def chiLanes (A : Lanes) : Lanes :=
  Vector.ofFn fun L =>
    A.get L ^^^ (~~~A.get (laneAt (xOf L + 1) (yOf L)) &&& A.get (laneAt (xOf L + 2) (yOf L)))

/-- The Iota step: the round constant into lane 0 (rule R106). -/
def iotaLanes (r : Fin 24) (A : Lanes) : Lanes := A.set 0 (A.get 0 ^^^ roundConstant r)

/-- One round: Theta, Rho and Pi, Chi, Iota, in this order (rule R107). -/
def roundLanes (r : Fin 24) (A : Lanes) : Lanes := iotaLanes r (chiLanes (rhoPiLanes (thetaLanes A)))

/-- Keccak-f[1600]: the rounds 0 to 23 in increasing order (rule R108). -/
def permuteLanes (A : Lanes) : Lanes := (List.finRange 24).foldl (fun B r => roundLanes r B) A

/-! ## The micro-ops -/

/-- A lane unit whose S has gone through a function of its lanes (rule R102). -/
def LaneUnit.mapLanes (u : LaneUnit) (wo : WordOrder) (f : Lanes → Lanes) : LaneUnit :=
  { u with S := ofLanes wo (f (toLanes wo u.S)) }

/-- A permutation micro-op: S goes through `f`, the words `p` of S are written, upc advances
(rule R102). -/
def State.permuteUnit (s : State) (f : Lanes → Lanes) (p : Nat → Bool) : Result :=
  s.updateUnit (fun u => u.mapLanes s.params.wordOrder f) (Reg.isS p)

/-- A round index as a row of the round-constant table, if it is one (rule R72). -/
def roundIndex? (r : BitVec 5) : Option (Fin 24) := if h : r.toNat < 24 then some ⟨r.toNat, h⟩ else none

/-- A permutation micro-op with a round index. An index of 24 to 31 belongs to no legal word, and such a word
is answered with ILLEGAL_UOP and nothing else (rules R74, R75; log 15). -/
def State.permuteUnitRound (s : State) (r : BitVec 5) (f : Fin 24 → Lanes → Lanes) (p : Nat → Bool) :
    Result :=
  match roundIndex? r with
  | some k => s.permuteUnit (f k) p
  | none => .next (s.raise errIllegalUop)

/-- THETA (rule R103). -/
def execTheta (s : State) : Result := s.permuteUnit thetaLanes fun _ => true

/-- RHOPI (rule R104): lane 0, the words 0 and 1, is not written. -/
def execRhopi (s : State) : Result := s.permuteUnit rhoPiLanes fun k => decide (2 ≤ k)

/-- CHI (rule R105). -/
def execChi (s : State) : Result := s.permuteUnit chiLanes fun _ => true

/-- IOTA r (rule R106): only lane 0, the words 0 and 1, is written. -/
def execIota (r : BitVec 5) (s : State) : Result :=
  s.permuteUnitRound r iotaLanes fun k => decide (k < 2)

/-- ROUND r (rule R107). -/
def execRound (r : BitVec 5) (s : State) : Result := s.permuteUnitRound r roundLanes fun _ => true

/-- PERMUTE (rule R108). -/
def execPermute (s : State) : Result := s.permuteUnit permuteLanes fun _ => true

end Sys2Proof.Machine
end

