-- ==== Sys2Proof/Machine/Hasher.lean ====
section
/-! DEFINITION. The hasher micro-ops (42_hasher.md, rules R130 to R134): CLEAR, ABSORB, PAD, EXTRACT,
HASH. -/
namespace Sys2Proof.Machine

/-- The word of S that word k of an 8-word block goes to or comes from: the first 8 words (rules R131,
R133). -/
def leadingWord (k : Fin 8) : Fin 50 := ⟨k.val, by omega⟩

/-- CLEAR's effect: every word of S is 0 (rule R130). -/
def LaneUnit.clear (u : LaneUnit) : LaneUnit := { u with S := Vector.replicate 50 0 }

/-- ABSORB's effect: S[0..7] <- IN[0..7], a copy; S[8..49] unchanged (rules R131, R219). -/
def LaneUnit.absorb (u : LaneUnit) : LaneUnit :=
  { u with S := Vector.ofFn fun k => if h : k.val < 8 then u.IN.get ⟨k.val, h⟩ else u.S.get k }

/-- PAD's effect: pad10*1 for an input of 8 words, at words 8 and 33 (rules R132, R220). -/
def LaneUnit.pad (u : LaneUnit) : LaneUnit :=
  { u with S := (u.S.set 8 (u.S.get 8 ^^^ 0x00000001)).set 33 (u.S.get 33 ^^^ 0x80000000) }

/-- PERMUTE's effect (rule R108). -/
def LaneUnit.permute (wo : WordOrder) (u : LaneUnit) : LaneUnit := u.mapLanes wo permuteLanes

/-- EXTRACT's effect: DIG[0..7] <- S[0..7] (rule R133). -/
def LaneUnit.extract (u : LaneUnit) : LaneUnit := { u with DIG := Vector.ofFn fun k => u.S.get (leadingWord k) }

/-- HASH's effect: CLEAR; ABSORB; PAD; PERMUTE; EXTRACT (rule R134). -/
def LaneUnit.hash (wo : WordOrder) (u : LaneUnit) : LaneUnit :=
  (u.clear.absorb.pad.permute wo).extract

/-- CLEAR (rule R130). -/
def execClear (s : State) : Result := s.updateUnit LaneUnit.clear (Reg.isS fun _ => true)

/-- ABSORB (rule R131). -/
def execAbsorb (s : State) : Result := s.updateUnit LaneUnit.absorb (Reg.isS fun k => decide (k < 8))

/-- PAD (rule R132). -/
def execPad (s : State) : Result := s.updateUnit LaneUnit.pad (Reg.isS fun k => k == 8 || k == 33)

/-- EXTRACT (rule R133). -/
def execExtract (s : State) : Result := s.updateUnit LaneUnit.extract Reg.isDig

/-- HASH (rule R134). -/
def execHash (s : State) : Result :=
  s.updateUnit (LaneUnit.hash s.params.wordOrder) fun r => r.isS (fun _ => true) || r.isDig

end Sys2Proof.Machine
end

