-- ==== Sys2Proof/Machine/Driver.lean ====
section
/-! DEFINITION. The driver micro-ops (43_driver.md, rules R152 to R156): GUARD, NONCE, BUILD, PACK, HALT. -/
namespace Sys2Proof.Machine

/-- GUARD's jump: on a dispatch lane unit upc <- 9 if INACTIVE, else upc + 1; the test unit has no upc
(rule R152). -/
def State.guardBranch (s : State) (inactive : Bool) : State := if inactive then s.setUpc 9 else s.advance

/-- GUARD (rule R152). -/
def execGuard (s : State) : Result :=
  s.onUnit fun u =>
    (s.setUnit { u with inactive := guardFlag u.laneIndex s.laneCount }).guardBranch
      (guardFlag u.laneIndex s.laneCount)

/-- The low word of nonce base + index: a 32-bit addition that wraps (rule R153). -/
def nonceLow (baseLo index : Word) : Word := baseLo + index

/-- The high word of nonce base + index: one more where the low addition wrapped (rule R153). -/
def nonceHigh (baseLo baseHi index : Word) : Word :=
  if addCarry (nonceLow baseLo index) baseLo then baseHi + 1 else baseHi

/-- NONCE's effect (rule R153). -/
def LaneUnit.deriveNonce (baseLo baseHi : Word) (u : LaneUnit) : LaneUnit :=
  { u with nonceLo := nonceLow baseLo u.laneIndex, nonceHi := nonceHigh baseLo baseHi u.laneIndex }

/-- NONCE (rule R153). -/
def execNonce (s : State) : Result :=
  s.updateUnit (LaneUnit.deriveNonce s.baseNonceLo s.baseNonceHi) Reg.isNonce

/-- BUILD's effect: IN <- NONCE_LO, NONCE_HI and six zero words (rule R154). -/
def LaneUnit.build (u : LaneUnit) : LaneUnit := { u with IN := #v[u.nonceLo, u.nonceHi, 0, 0, 0, 0, 0, 0] }

/-- BUILD (rule R154). -/
def execBuild (s : State) : Result := s.updateUnit LaneUnit.build Reg.isIn

/-- The first word address of a lane index's slot, exact (rule R155). -/
def slotBase (index : Word) : Nat := 10 * index.toNat

/-- The ten words of a lane record: NONCE_LO, NONCE_HI, DIG[0..7] (rules R48, R155). -/
def LaneUnit.record (u : LaneUnit) : List Word := u.nonceLo :: u.nonceHi :: u.DIG.toList

/-- PACK's effect on a unit that is active: the record into the unit's slot, or RESULTS_OUT_OF_BOUNDS and
nothing written where the slot does not fit (rule R155). -/
def State.packRecord (s : State) (u : LaneUnit) : State :=
  if slotBase u.laneIndex + 10 ≤ s.params.resultsWords.val then
    { s with res := Memory.writeWords s.res (slotBase u.laneIndex) u.record }
  else s.raise errResultsOutOfBounds

/-- PACK (rule R155): no effect on an inactive unit. -/
def execPack (s : State) : Result :=
  s.onUnit fun u => (if u.inactive then s else s.packRecord u).advance

/-- HALT (rule R156): a dispatch lane execution ends; no effect on the test unit. -/
def execHalt (s : State) : Result := s.onUnit fun _ => s.endLane

end Sys2Proof.Machine
end

