-- ==== Sys2Proof/Machine/Dispatch.lean ====
section
/-! DEFINITION. One arm per micro-op. -/
namespace Sys2Proof.Machine

def exec (i : Instr) (s : State) : Host.Outcome State Fault Refusal :=
  match i with
  | .theta => Sys2Proof.Machine.execTheta s
  | .rhopi => Sys2Proof.Machine.execRhopi s
  | .chi => Sys2Proof.Machine.execChi s
  | .iota r => Sys2Proof.Machine.execIota r s
  | .round r => Sys2Proof.Machine.execRound r s
  | .permute => Sys2Proof.Machine.execPermute s
  | .clear => Sys2Proof.Machine.execClear s
  | .absorb => Sys2Proof.Machine.execAbsorb s
  | .pad => Sys2Proof.Machine.execPad s
  | .extract => Sys2Proof.Machine.execExtract s
  | .hash => Sys2Proof.Machine.execHash s
  | .guard => Sys2Proof.Machine.execGuard s
  | .nonce => Sys2Proof.Machine.execNonce s
  | .build => Sys2Proof.Machine.execBuild s
  | .pack => Sys2Proof.Machine.execPack s
  | .halt => Sys2Proof.Machine.execHalt s

end Sys2Proof.Machine
end

