-- ==== Sys2Proof/Machine/HostPort.lean ====
section
/-! DEFINITION. The host's accesses: reads and writes of REG and RES, START, TEST_UOP, and the reset event
(10_state.md section 4, rules R57, R61, R157, R158, R163, R181, R183, R210). -/
namespace Sys2Proof.Machine

/-- A host read returns a word to the host. -/
def State.reply (s : State) (v : Word) : State := { s with replies := s.replies ++ [v] }

/-! ## Reading REG -/

/-- RESULTS_WORDS as the host reads it: saturated when it is 2^32 (rule R39). -/
def State.resultsWordsReg (s : State) : Word :=
  if s.params.resultsWords.val = 2 ^ 32 then 0xFFFFFFFF else BitVec.ofNat 32 s.params.resultsWords.val

/-- The word a register holds, as a host read shows it; write-only registers and reserved addresses read 0
(rules R35 to R46). -/
def State.regValue (s : State) (r : Reg) : Word :=
  match r with
  | .ctrl => 0
  | .status => s.statusWord
  | .launchWidth => s.launchWidth
  | .resultsWords => s.resultsWordsReg
  | .testUop => 0
  | .testLaneIndex => s.test.laneIndex
  | .testFlags => s.testFlagsWord
  | .baseNonceLo => s.baseNonceLo
  | .baseNonceHi => s.baseNonceHi
  | .laneCount => s.laneCount
  | .patternValue => s.patternValue
  | .patternType => s.patternType
  | .patternLength => s.patternLength
  | .patternReserved => s.patternReserved
  | .testIn k => s.test.IN.get k
  | .testDig k => s.test.DIG.get k
  | .testNonceLo => s.test.nonceLo
  | .testNonceHi => s.test.nonceHi
  | .testS k => s.test.S.get k
  | .reserved => 0

/-- A host read of a REG word: the word, or a free draw where the register is UNSPECIFIED (rules R49, R213;
log 3). Reads have no other effect (rule R56). -/
def State.hostReadReg (s : State) (a : BitVec 8) : State :=
  s.reply (if regAt a ∈ s.unwritten then Config.freeWord s.tick else s.regValue (regAt a))

/-! ## Writing REG -/

/-- `r` and no other register. -/
def Reg.only (r : Reg) (q : Reg) : Bool := decide (q = r)

/-- Store a word into a read/write register, which from then on is written (rules R35, R45, R49). A write to
a read-only register or a reserved address is ignored (rule R46). -/
def State.storeReg (s : State) (r : Reg) (v : Word) : State :=
  match r with
  | .launchWidth => { s with launchWidth := v }.markWritten r.only
  | .testLaneIndex => { s with test := { s.test with laneIndex := v } }.markWritten r.only
  | .baseNonceLo => { s with baseNonceLo := v }.markWritten r.only
  | .baseNonceHi => { s with baseNonceHi := v }.markWritten r.only
  | .laneCount => { s with laneCount := v }.markWritten r.only
  | .patternValue => { s with patternValue := v }.markWritten r.only
  | .patternType => { s with patternType := v }.markWritten r.only
  | .patternLength => { s with patternLength := v }.markWritten r.only
  | .patternReserved => { s with patternReserved := v }.markWritten r.only
  | .testIn k => { s with test := { s.test with IN := s.test.IN.set k v } }.markWritten r.only
  | .testS k => { s with test := { s.test with S := s.test.S.set k v } }.markWritten r.only
  | .ctrl => s
  | .status => s
  | .resultsWords => s
  | .testUop => s
  | .testFlags => s
  | .testDig _ => s
  | .testNonceLo => s
  | .testNonceHi => s
  | .reserved => s

/-- A fresh lane execution: LANE_INDEX = i, upc = 0, INACTIVE = 0, every other register a free value
(rule R158; log 9). -/
def LaneExec.launched (tick i : Nat) : LaneExec where
  unit :=
    { S := Vector.ofFn fun k => Config.launchWord tick i k.val
      IN := Vector.ofFn fun k => Config.launchWord tick i (50 + k.val)
      DIG := Vector.ofFn fun k => Config.launchWord tick i (58 + k.val)
      nonceLo := Config.launchWord tick i 66
      nonceHi := Config.launchWord tick i 67
      laneIndex := BitVec.ofNat 32 i
      inactive := false }
  upc := 0

/-- How many slots a dispatch of this configuration writes, `min(P, LANE_COUNT)` (rules R157, R161). -/
def State.activeLanes (s : State) : Nat := min s.launchWidth.toNat s.laneCount.toNat

/-- START: refused with RESULTS_TOO_SMALL where the active slots do not fit, in exact arithmetic; else a
dispatch of P lane executions is launched (rules R157, R158). -/
def State.start (s : State) : State :=
  if 10 * s.activeLanes ≤ s.params.resultsWords.val then
    { s with
      done := false
      busy := true
      lanes := (List.range s.launchWidth.toNat).map (LaneExec.launched s.tick)
      resAtStart := s.res }
  else s.raise errResultsTooSmall

/-- TEST_UOP: the word is decoded and, if legal, executed at once on the test unit (rules R75, R77,
R163). -/
def State.runTestUop (s : State) (v : Word) : Result :=
  match decodeTestUop v with
  | .legal i => exec i { s with running := .test }
  | .illegal _ => .next (s.raise errIllegalUop)

/-- A host write of a REG word other than STATUS while BUSY = 0 (rules R36, R40, R45, R46). -/
def State.writeRegIdle (s : State) (r : Reg) (v : Word) : Result :=
  match r with
  | .ctrl => .next (if v.getLsbD 0 then s.start else s)
  | .testUop => s.runTestUop v
  | _ => .next (s.storeReg r v)

/-- A host write of a REG word: STATUS at any time; any other address, reserved ones too, is dropped with
HOST_WRITE_BUSY while BUSY = 1, before any other check (rules R37, R47, R183). -/
def State.hostWriteReg (s : State) (a : BitVec 8) (v : Word) : Result :=
  if regAt a = .status then .next (s.writeStatus v)
  else if s.busy then .next (s.raise errHostWriteBusy)
  else s.writeRegIdle (regAt a) v

/-! ## RES -/

/-- The words a host read of RES can see: while BUSY = 1 either RES as it stood at START or RES as it is
(rule R61, I8; log 8). -/
def State.visibleRes (s : State) : Memory :=
  if s.busy && Config.raceReadsOld s.tick then s.resAtStart else s.res

/-- What a host read of RES word `a` returns; a word not written since reset is a free draw (rule R49, I7;
log 3). -/
def State.resWord (s : State) (a : Nat) : Word := (s.visibleRes.read a).getD (Config.freeWord s.tick)

/-- A host read of a RES word; out of range it returns 0 and raises RESULTS_OUT_OF_BOUNDS (rule R57). -/
def State.hostReadRes (s : State) (a : Nat) : State :=
  if a < s.params.resultsWords.val then s.reply (s.resWord a)
  else (s.raise errResultsOutOfBounds).reply 0

/-- A host write of a RES word: dropped with HOST_WRITE_BUSY while BUSY = 1, dropped with
RESULTS_OUT_OF_BOUNDS out of range (rules R47, R57, R183). -/
def State.hostWriteRes (s : State) (a : Nat) (v : Word) : State :=
  if s.busy then s.raise errHostWriteBusy
  else if a < s.params.resultsWords.val then { s with res := s.res.write a v }
  else s.raise errResultsOutOfBounds

/-! ## Reset -/

/-- The reset event: the engine as after reset, a dispatch in flight discarded, every register and every RES
word of rule R49's table UNSPECIFIED (rule R210). The host's list, the words returned and the tick are not the
engine's (log 13). -/
def State.resetEngine (s : State) : State :=
  { State.afterReset s.params s.tick with inbox := s.inbox, replies := s.replies }

/-! ## One host event -/

/-- One access of the host, or the reset event (rules R63, R195). -/
def State.hostEvent (s : State) (e : HostEvent) : Result :=
  match e with
  | .readReg a => .next (s.hostReadReg a)
  | .writeReg a v => s.hostWriteReg a v
  | .readRes a => .next (s.hostReadRes a)
  | .writeRes a v => .next (s.hostWriteRes a v)
  | .reset => .next s.resetEngine

end Sys2Proof.Machine
end

