-- ==== Sys2Proof/Machine/Sequencer.lean ====
section
/-! DEFINITION. The agents and who moves next: the host, the dispatch controller, the live lane executions
(rules R20, R151, R159, R160, R194). -/
namespace Sys2Proof.Machine

/-- An agent that can take a step (rule R20); the test unit steps within a host write. -/
inductive Agent
  | host
  | controller
  | lane (i : Word)
deriving DecidableEq, Repr

/-- The agents of a dispatch in flight that can move: any live lane execution, or the controller once all
have ended (rules R159, R160). -/
def State.dispatchAgents (s : State) : List Agent :=
  if s.lanes.isEmpty then [.controller] else s.lanes.map fun l => .lane l.unit.laneIndex

/-- The agents that can move: the host if it has an access pending, and while BUSY = 1 the dispatch
(rules R159, R160, R194). -/
def State.enabled (s : State) : List Agent :=
  (if s.inbox.isEmpty then [] else [.host]) ++ (if s.busy then s.dispatchAgents else [])

/-- The agent that moves next: where more than one can, a free choice (rule R159, I14; log 7). -/
def State.pick (s : State) : Option Agent :=
  match s.enabled with
  | [] => none
  | [a] => some a
  | a :: rest => (a :: rest)[Config.schedule s.tick % (rest.length + 1)]?

/-- One step of a live lane execution: fetch the ROM word at upc and execute it on its lane unit
(rule R151). -/
def State.laneStep (s : State) (i : Word) : Result :=
  match s.lane? i with
  | none => .fault .noSuchLane
  | some l =>
    match (romWord l.upc).map decode with
    | some (.legal op) => exec op { s with running := .lane i }
    | some (.illegal _) => .fault .upcOutOfRom
    | none => .fault .upcOutOfRom

/-- The completion step: `STATUS.BUSY <- 0; STATUS.DONE <- 1` (rule R160). -/
def State.complete (s : State) : State := { s with busy := false, done := true }

/-- The host's next access (rule R63). -/
def State.hostStep (s : State) : Result :=
  match s.inbox with
  | [] => .next s
  | e :: rest => State.hostEvent { s with inbox := rest } e

/-- One step of an agent. -/
def State.agentStep (s : State) (a : Agent) : Result :=
  match a with
  | .host => s.hostStep
  | .controller => .next s.complete
  | .lane i => s.laneStep i

/-- The free values' counter moves on with every step (log 11). -/
def State.nextTick (s : State) : State := { s with tick := s.tick + 1 }

/-- One step of the machine: the agent that moves next moves; with none the engine is idle and nothing
changes (rules R159, R194; log 14). -/
def State.machineStep (s : State) : Result :=
  match s.pick with
  | none => .next s
  | some a => s.nextTick.agentStep a

/-- The TEST_UOP write that hands over a word as the opcode table numbers it (rule R163). -/
def fetchEvent (nbits w : Nat) : HostEvent := .writeReg 0x04 (tableWordValue nbits w)

/-- The state in which the next step is the host's TEST_UOP write of a given word: no dispatch in flight, and
that write the host's next access (rule R163; log 13). -/
def State.withTestUop (s : State) (nbits w : Nat) : State :=
  { s with busy := false, lanes := [], inbox := fetchEvent nbits w :: s.inbox }

end Sys2Proof.Machine
end

