-- ==== Sys2Proof/Machine/Step.lean ====
section
/-! DEFINITION. One step of the machine, and where it takes its next instruction from. -/
namespace Sys2Proof.Machine

/-- One step of the machine. -/
def step (s : State) : Host.Outcome State Fault Refusal := s.machineStep

/-- The state with a given instruction where step takes its next one: the host's next access is the
TEST_UOP write of its word (log 13). -/
def State.withFetchWord (s : State) (nbits w : Nat) : State := s.withTestUop nbits w

end Sys2Proof.Machine
end

