-- ==== Sys2Proof/Machine/Strict.lean ====
section
/-! DEFINITION. The engine's reads of UNSPECIFIED registers, and the step that faults on them, as rule R213 and
item I6 have a model do. `step` goes on, on the unknown value the register holds (log 2). -/
namespace Sys2Proof.Machine

/-- The test unit's registers and the configuration words that a micro-op reads (the Operands lines of rules
R103 to R156). PACK on an inactive unit reads nothing else. -/
def Instr.reads (inactive : Bool) (i : Instr) : Reg → Bool :=
  match i with
  | .theta => Reg.isS fun _ => true
  | .rhopi => Reg.isS fun k => decide (2 ≤ k)
  | .chi => Reg.isS fun _ => true
  | .iota _ => Reg.isS fun k => decide (k < 2)
  | .round _ => Reg.isS fun _ => true
  | .permute => Reg.isS fun _ => true
  | .clear => fun _ => false
  | .absorb => Reg.isIn
  | .pad => Reg.isS fun k => k == 8 || k == 33
  | .extract => Reg.isS fun k => decide (k < 8)
  | .hash => Reg.isIn
  | .guard => fun r => decide (r = .testLaneIndex) || decide (r = .laneCount)
  | .nonce => fun r => decide (r = .testLaneIndex) || decide (r = .baseNonceLo) || decide (r = .baseNonceHi)
  | .build => Reg.isNonce
  | .pack => fun r => !inactive && (decide (r = .testLaneIndex) || r.isNonce || r.isDig)
  | .halt => fun _ => false

/-- The words of REG that a lane execution can read (rule R34). -/
def Reg.isLaneConfig (r : Reg) : Bool :=
  decide (r = .laneCount) || decide (r = .baseNonceLo) || decide (r = .baseNonceHi)

/-- The words of REG that START reads (rule R157). -/
def Reg.isStartConfig (r : Reg) : Bool := decide (r = .launchWidth) || decide (r = .laneCount)

/-- Does a host write of a REG word make the engine read an UNSPECIFIED register: a START that is not dropped, or
a micro-op on the test unit (rule R213)? -/
def State.writeReadsUnspecified (s : State) (r : Reg) (v : Word) : Bool :=
  match r with
  | .ctrl => v.getLsbD 0 && s.unwritten.any Reg.isStartConfig
  | .testUop =>
    match decodeTestUop v with
    | .legal i => s.unwritten.any (Instr.reads s.test.inactive i)
    | .illegal _ => false
  | _ => false

/-- Does the host's next access make the engine read an UNSPECIFIED register (rule R213)? -/
def State.hostReadsUnspecified (s : State) : Bool :=
  match s.inbox with
  | .writeReg a v :: _ => !s.busy && s.writeReadsUnspecified (regAt a) v
  | _ => false

/-- Does the next step of a live lane execution read an UNSPECIFIED register (rule R213)? Its lane unit holds
none that it reads (rule R150), so only words of REG count. -/
def State.laneReadsUnspecified (s : State) (i : Word) : Bool :=
  match (s.lane? i).bind fun l => (romWord l.upc).map decode with
  | some (.legal op) => s.unwritten.any fun r => r.isLaneConfig && Instr.reads false op r
  | _ => false

/-- Does the next step read an UNSPECIFIED register (rule R213)? -/
def State.readsUnspecified (s : State) : Bool :=
  match s.pick with
  | none => false
  | some .host => s.hostReadsUnspecified
  | some .controller => false
  | some (.lane i) => s.laneReadsUnspecified i

/-- The step under rule R213: a fault where the engine is to read an UNSPECIFIED register, so that nothing can be
proved of such a run; anywhere else the step of the machine. -/
def strictStep (s : State) : Result := if s.readsUnspecified then .fault .unspecifiedRead else step s

end Sys2Proof.Machine
end

