-- ==== Sys2Proof/Safety.lean ====
section
/-! DEFINITION. The terms in which claims are made: what a micro-op leaves unchanged, the record a lane
execution must deliver, the invariant of the machine with the progress of a dispatch in flight, the map of
the register block, states that differ in UNSPECIFIED registers only, and the textbook Keccak-256 that the hasher is compared
with. -/
namespace Sys2Proof.Machine

/-! ## What a micro-op changes and what it leaves -/

/-- A micro-op has turned `s` into `t` as one step of the executing lane unit: that unit now holds `u`; on a
dispatch lane unit its upc went through `upc`, on the test unit the registers `written` lost their UNSPECIFIED
mark; every other lane unit, every register of REG and every word of RES is unchanged
(rules R22, R102, R151). -/
structure UnitStep (s t : State) (u : LaneUnit) (written : Reg → Bool) (upc : BitVec 4 → BitVec 4) :
    Prop where
  /-- The executing unit's registers. -/
  unit : t.unit? = some u
  /-- The executing dispatch lane unit's upc. -/
  counter : ∀ i l, s.running = .lane i → s.lane? i = some l → t.lane? i = some { unit := u, upc := upc l.upc }
  /-- Every other dispatch lane unit. -/
  others : ∀ j, s.running ≠ .lane j → t.lane? j = s.lane? j
  /-- The live lane executions stay the same ones, in the same order. -/
  live : t.lanes.map (·.unit.laneIndex) = s.lanes.map (·.unit.laneIndex)
  /-- The test unit, when it is not the executing one. -/
  test : s.running ≠ .test → t.test = s.test
  /-- The UNSPECIFIED marks. -/
  marks : ∀ r, r ∈ t.unwritten ↔ r ∈ s.unwritten ∧ ¬(s.running = .test ∧ written r = true)
  /-- Every word of RES. -/
  memory : ∀ a, t.res.read a = s.res.read a
  /-- Every field of the state but the three named. -/
  rest : t = { s with test := t.test, lanes := t.lanes, unwritten := t.unwritten }

/-- `upc <- upc + 1` (rule R151). -/
def nextUpc (n : BitVec 4) : BitVec 4 := n + 1

/-- The micro-ops of a list, executed one after the other on the same lane unit. -/
def State.Runs (ops : List Instr) (s t : State) : Prop :=
  match ops with
  | [] => t = s
  | i :: rest => ∃ m, exec i s = .next m ∧ State.Runs rest m t

/-- Lane (x, y) of S (rule R10). -/
def laneXY (wo : WordOrder) (S : Vector Word 50) (x y : Fin 5) : LaneWord := lane wo S (laneAt x y)

/-- The parity of column x of S (rule R103). -/
def parityOf (wo : WordOrder) (S : Vector Word 50) (x : Fin 5) : LaneWord :=
  laneXY wo S x 0 ^^^ laneXY wo S x 1 ^^^ laneXY wo S x 2 ^^^ laneXY wo S x 3 ^^^ laneXY wo S x 4

/-- The Rho offset of lane (x, y), from the table of rule R110: row x, column y. -/
def rhoOffset (x y : Fin 5) : Nat :=
  let rows : Vector (Vector Nat 5) 5 :=
    #v[#v[0, 36, 3, 41, 18], #v[1, 44, 10, 45, 2], #v[62, 6, 43, 15, 61], #v[28, 55, 25, 21, 56],
      #v[27, 20, 39, 8, 14]]
  (rows.get x).get y

/-! ## What a dispatch delivers (rule R161) -/

/-- The candidate of a nonce: its two words and six zero words (rule R154). -/
def candidate (lo hi : Word) : Vector Word 8 := #v[lo, hi, 0, 0, 0, 0, 0, 0]

/-- A lane unit that holds an input block, and 0 in every other register: what the hasher makes of the block
does not depend on those. -/
def inputUnit (input : Vector Word 8) : LaneUnit where
  S := Vector.replicate 50 0
  IN := input
  DIG := Vector.replicate 8 0
  nonceLo := 0
  nonceHi := 0
  laneIndex := 0
  inactive := false

/-- HASH of an input block, as a function of the block alone (rule R134). -/
def hashDigest (wo : WordOrder) (input : Vector Word 8) : Vector Word 8 :=
  ((inputUnit input).hash wo).DIG

/-- The 64-bit nonce of lane index `i`: base + i modulo 2^64 (rule R164). -/
def State.nonceOf (s : State) (i : Nat) : BitVec 64 :=
  joinHalves s.baseNonceHi s.baseNonceLo + BitVec.ofNat 64 i

/-- The ten words of lane index `i`'s slot after its PACK: the nonce, then HASH of its candidate
(rule R161). -/
def State.recordOf (s : State) (i : Nat) : List Word :=
  loHalf (s.nonceOf i) :: hiHalf (s.nonceOf i)
    :: (hashDigest s.params.wordOrder (candidate (loHalf (s.nonceOf i)) (hiHalf (s.nonceOf i)))).toList

/-- RES holds the results of a dispatch over the configuration of `s`: in the slot of every active lane index
its record, in every other word what `s.res` holds (rule R161). -/
def State.DispatchResult (s : State) (res : Memory) : Prop :=
  (∀ i < s.activeLanes, ∀ k < 10, res.read (10 * i + k) = (s.recordOf i)[k]?)
    ∧ ∀ a, 10 * s.activeLanes ≤ a → res.read a = s.res.read a

/-! ## The invariant -/

/-- What S holds on a lane unit before the micro-op at ROM address 4, 5, 6 or 7 (rules R130 to R132, R108,
R150). -/
def stageS (wo : WordOrder) (input : Vector Word 8) (upc : Nat) : Vector Word 50 :=
  let u := inputUnit input
  if upc = 4 then u.clear.S
  else if upc = 5 then u.clear.absorb.S
  else if upc = 6 then u.clear.absorb.pad.S
  else (u.clear.absorb.pad.permute wo).S

/-- How far a live lane execution has come, register by register (rule R150: every register is written before
it is read). -/
structure LaneProgress (s : State) (l : LaneExec) : Prop where
  /-- upc is in 0..9 (rule R30). -/
  upcInRom : l.upc.toNat ≤ 9
  /-- The index is one of the launched ones (rule R158). -/
  launched : l.unit.laneIndex.toNat < s.launchWidth.toNat
  /-- INACTIVE is 0 at launch (rule R158). -/
  atLaunch : l.upc.toNat = 0 → l.unit.inactive = false
  /-- After GUARD, INACTIVE is the guard's flag (rule R152). -/
  guarded : 1 ≤ l.upc.toNat → l.unit.inactive = guardFlag l.unit.laneIndex s.laneCount
  /-- An inactive lane execution is at HALT (rule R152). -/
  skipped : l.unit.inactive = true → l.upc.toNat = 9
  /-- After NONCE (rule R153). -/
  nonce : l.unit.inactive = false → 2 ≤ l.upc.toNat →
    l.unit.nonceLo = loHalf (s.nonceOf l.unit.laneIndex.toNat)
      ∧ l.unit.nonceHi = hiHalf (s.nonceOf l.unit.laneIndex.toNat)
  /-- After BUILD (rule R154). -/
  built : l.unit.inactive = false → 3 ≤ l.upc.toNat →
    l.unit.IN = candidate (loHalf (s.nonceOf l.unit.laneIndex.toNat)) (hiHalf (s.nonceOf l.unit.laneIndex.toNat))
  /-- After CLEAR, ABSORB, PAD and PERMUTE (rules R130 to R132, R108). -/
  hashed : l.unit.inactive = false → 4 ≤ l.upc.toNat → l.upc.toNat ≤ 7 →
    l.unit.S = stageS s.params.wordOrder l.unit.IN l.upc.toNat
  /-- After EXTRACT (rule R133). -/
  extracted : l.unit.inactive = false → 8 ≤ l.upc.toNat →
    l.unit.DIG = hashDigest s.params.wordOrder l.unit.IN

/-- Has lane index `i` still to pack its record? -/
def State.unpacked (s : State) (i : Nat) : Prop :=
  ∃ l ∈ s.lanes, l.unit.laneIndex.toNat = i ∧ l.upc.toNat ≤ 8

/-- A dispatch in flight (rules R157 to R162): the live lane executions are distinct and each is where it
should be, the active slots fit, a slot holds its record once packed and its words at START before, and no
other word of RES has changed since START. -/
structure State.DispatchInFlight (s : State) : Prop where
  distinct : (s.lanes.map (·.unit.laneIndex)).Nodup
  progress : ∀ l ∈ s.lanes, LaneProgress s l
  fits : 10 * s.activeLanes ≤ s.params.resultsWords.val
  pending : ∀ i < s.activeLanes, s.unpacked i → ∀ k < 10, s.res.read (10 * i + k) = s.resAtStart.read (10 * i + k)
  packed : ∀ i < s.activeLanes, ¬s.unpacked i → ∀ k < 10, s.res.read (10 * i + k) = (s.recordOf i)[k]?
  outside : ∀ a, 10 * s.activeLanes ≤ a → s.res.read a = s.resAtStart.read a

/-- The invariant of the machine: RES is in canonical form and within RESULTS_WORDS (rule R48), ERRCODE is 0
exactly when ERR is 0 and never above 4 (rules R37, R181), only the registers of rule R49's table can be
UNSPECIFIED, lane executions exist only while BUSY = 1
(rules R158, R160), and a dispatch in flight is as rules R150 to R162 say. -/
structure State.Inv (s : State) : Prop where
  resWf : s.res.wf
  resBound : ∀ c ∈ s.res, c.1 < s.params.resultsWords.val
  startWf : s.resAtStart.wf
  startBound : ∀ c ∈ s.resAtStart, c.1 < s.params.resultsWords.val
  codeZero : s.err = false ↔ s.errCode = 0
  codeRange : s.errCode.toNat ≤ 4
  marks : ∀ r ∈ s.unwritten, r ∈ Reg.unspecifiedAtReset
  idle : s.busy = false → s.lanes = []
  inFlight : s.busy = true → s.DispatchInFlight

/-- The steps the lane executions of a dispatch in flight can still take (rule R197: at most 10 each). -/
def State.laneStepsLeft (s : State) : Nat := (s.lanes.map fun l => 10 - l.upc.toNat).sum

/-! ## The map of the register block -/

/-- A row of the map of rules R35 and R45: at address `a` stands register `r`, and in `s` it holds `w`. One
clause for every register of the map that holds data. -/
structure State.MapRow (s : State) (a : BitVec 8) (r : Reg) (w : Word) : Prop where
  launchWidth : a = 0x02 → r = .launchWidth ∧ w = s.launchWidth
  testLaneIndex : a = 0x05 → r = .testLaneIndex ∧ w = s.test.laneIndex
  baseNonceLo : a = 0x08 → r = .baseNonceLo ∧ w = s.baseNonceLo
  baseNonceHi : a = 0x09 → r = .baseNonceHi ∧ w = s.baseNonceHi
  laneCount : a = 0x0A → r = .laneCount ∧ w = s.laneCount
  patternValue : a = 0x0C → r = .patternValue ∧ w = s.patternValue
  patternType : a = 0x0D → r = .patternType ∧ w = s.patternType
  patternLength : a = 0x0E → r = .patternLength ∧ w = s.patternLength
  patternReserved : a = 0x0F → r = .patternReserved ∧ w = s.patternReserved
  testIn : ∀ k : Fin 8, a.toNat = 0x10 + k.val → r = .testIn k ∧ w = s.test.IN.get k
  testDig : ∀ k : Fin 8, a.toNat = 0x18 + k.val → r = .testDig k ∧ w = s.test.DIG.get k
  testNonceLo : a = 0x20 → r = .testNonceLo ∧ w = s.test.nonceLo
  testNonceHi : a = 0x21 → r = .testNonceHi ∧ w = s.test.nonceHi
  testS : ∀ k : Fin 50, a.toNat = 0x40 + k.val → r = .testS k ∧ w = s.test.S.get k

/-! ## UNSPECIFIED registers (rules R49, R213) -/

/-- The two states differ at most in what their UNSPECIFIED registers hold. -/
structure AgreeOnWritten (s t : State) : Prop where
  marks : t.unwritten = s.unwritten
  values : ∀ r, r ∉ s.unwritten → t.regValue r = s.regValue r
  inactive : t.test.inactive = s.test.inactive
  rest : t = { s with
    launchWidth := t.launchWidth, baseNonceLo := t.baseNonceLo, baseNonceHi := t.baseNonceHi
    laneCount := t.laneCount, patternValue := t.patternValue, patternType := t.patternType
    patternLength := t.patternLength, patternReserved := t.patternReserved, test := t.test }

/-! ## The textbook Keccak-256 -/

namespace Textbook

/-- The 25 lanes by their coordinates. -/
abbrev Lattice := Fin 5 → Fin 5 → LaneWord

def theta (A : Lattice) : Lattice :=
  let c x := A x 0 ^^^ A x 1 ^^^ A x 2 ^^^ A x 3 ^^^ A x 4
  fun x y => A x y ^^^ (c (x + 4) ^^^ rotl64 (c (x + 1)) 1)

/-- Rho and Pi: lane (x, y), rotated by its offset, goes to (y, 2x + 3y); read backwards, lane (x, y) comes
from (x + 3y, x) (rule R110). -/
def rhoPi (A : Lattice) : Lattice := fun x y => rotl64 (A (x + 3 * y) x) (rhoOffset (x + 3 * y) x)

def chi (A : Lattice) : Lattice := fun x y => A x y ^^^ (~~~A (x + 1) y &&& A (x + 2) y)

/-- One step of the LFSR of x^8 + x^6 + x^5 + x^4 + 1 (item I1 of 93_implementation_defined.md). -/
def lfsrStep (v : BitVec 8) : BitVec 8 := (v <<< 1) ^^^ (if v.getLsbD 7 then 0x71 else 0)

/-- rc(n), the bit that n steps of the LFSR from 1 put out. -/
def rcBit (n : Nat) : Bool := ((List.range n).foldl (fun v _ => lfsrStep v) 1).getLsbD 0

/-- The round constant of round r: bit 2^j - 1 is rc(7r + j) for j from 0 to 6, every other bit 0 (item I1). It is
made from the LFSR and not from the table of rule R32. -/
def roundConstant (r : Fin 24) : LaneWord :=
  (List.range 7).foldl (fun c j => if rcBit (7 * r.val + j) then c ||| (1 <<< (2 ^ j - 1)) else c) 0

def iota (r : Fin 24) (A : Lattice) : Lattice :=
  fun x y => if x = 0 ∧ y = 0 then A x y ^^^ Textbook.roundConstant r else A x y

def keccakF (A : Lattice) : Lattice :=
  (List.finRange 24).foldl (fun B r => iota r (chi (rhoPi (theta B)))) A

/-- The one 136-byte block of a 32-byte message under pad10*1 with domain byte 0x01, and the 64 zero bytes of
the capacity (rules R52, R135). -/
def paddedByte (m : Fin 32 → BitVec 8) (j : Nat) : BitVec 8 :=
  if h : j < 32 then m ⟨j, h⟩ else if j = 32 then 0x01 else if j = 135 then 0x80 else 0

/-- A lane from its eight bytes, least significant first. -/
def laneOfBytes (b : Nat → BitVec 8) : LaneWord := b 7 ++ (b 6 ++ (b 5 ++ (b 4 ++ (b 3 ++ (b 2 ++ (b 1 ++ b 0))))))

/-- Keccak-256 of a 32-byte message: rate 1088, capacity 512, one block, 32 bytes squeezed. -/
def keccak256 (m : Fin 32 → BitVec 8) (j : Fin 32) : BitVec 8 :=
  let A : Lattice := fun x y => laneOfBytes fun b => paddedByte m (8 * (x.val + 5 * y.val) + b)
  let B := keccakF A
  (B ⟨j.val / 8, by omega⟩ 0).extractLsb' (8 * (j.val % 8)) 8

end Textbook

end Sys2Proof.Machine
end

