-- ==== Sys2Proof/Certificates/Slice0/Obligations.lean ====
section
/-! DEFINITION. The statements about the model, made from the numbered rules of spec/. A micro-op's statement
gives its word, the next state it answers on either kind of lane unit, its result, and (through `UnitStep`)
everything it leaves unchanged. -/

open Sys2Proof Sys2Proof.Machine

/-! ## Encoding -/

/-- Every well-formed instruction is what its word decodes to (rules R70 to R74). -/
def Obligations.DecodeOfEncode : Prop :=
  ∀ i : Instr, i.wellFormed = true → decode (encode i) = .legal i

/-- A legal word is the word of the one well-formed instruction it decodes to, so no two legal words decode
to the same one (rule R74). -/
def Obligations.LegalWordsAreEncodings : Prop :=
  ∀ (w : UopWord) (i : Instr), decode w = .legal i → i.wellFormed = true ∧ encode i = w

/-- Rule R74: a word is legal exactly when its OPC is one of the sixteen, Z is 0, and RND is 0 to 23 in IOTA
and ROUND (0x13, 0x14) and 0 elsewhere. -/
def Obligations.WordLegalExactlyWhen : Prop :=
  ∀ w : UopWord, (∃ i, decode w = .legal i) ↔
    (opcField w ∈ [0x10, 0x11, 0x12, 0x13, 0x14, 0x15, 0x20, 0x21, 0x22, 0x23, 0x24, 0x30, 0x31, 0x32, 0x33, 0x3F]
      ∧ zField w = 0
      ∧ if opcField w = 0x13 ∨ opcField w = 0x14 then (rndField w).toNat ≤ 23 else rndField w = 0)

/-- The words of rule R73's list and rule R81's worked encodings. -/
def Obligations.ListedWordsDecode : Prop :=
  [0x1000, 0x1100, 0x1200, 0x1300, 0x1305, 0x1317, 0x1400, 0x1417, 0x1500, 0x2000, 0x2100, 0x2200, 0x2300,
    0x2400, 0x3000, 0x3100, 0x3200, 0x3300, 0x3F00].map decode
    = [.theta, .rhopi, .chi, .iota 0, .iota 5, .iota 23, .round 0, .round 23, .permute, .clear, .absorb, .pad,
        .extract, .hash, .guard, .nonce, .build, .pack, .halt].map Decoded.legal
  ∧ ∀ i, ∀ w ∈ [0x1318, 0x1001, 0x1020, 0x0000], decode w ≠ .legal i

/-- Rule R77: a TEST_UOP value supplies its bits 15:0 as the word, and is illegal when bits 31:16 are not 0. -/
def Obligations.TestUopValueSuppliesLowHalf : Prop :=
  ∀ (v : Word) (i : Instr),
    decodeTestUop v = .legal i ↔ v.extractLsb' 16 16 = 0 ∧ decode (v.extractLsb' 0 16) = .legal i

/-! ## The rotate -/

/-- Rule R100: bit k of `rotl64(v, s)` is bit (k - s) mod 64 of v. -/
def Obligations.RotateMovesBits : Prop :=
  ∀ (v : LaneWord) (s k : Nat), s ≤ 63 → k ≤ 63 → (rotl64 v s).getLsbD k = v.getLsbD ((k + 64 - s) % 64)

/-- Rule R101: the half-word form equals the 64-bit rotate for every amount from 0 to 63. -/
def Obligations.HalfRotateIsRotate : Prop :=
  ∀ (v : LaneWord) (s : Nat), s ≤ 63 →
    rotlHalf (hiHalf v) (loHalf v) s = (hiHalf (rotl64 v s), loHalf (rotl64 v s))

/-! ## Permutation micro-ops -/

/-- Rule R103: THETA. -/
def Obligations.ThetaXorsColumnParities : Prop :=
  decode 0x1000 = .legal .theta ∧
  ∀ (s : State) (u : LaneUnit), s.unit? = some u →
    ∃ t S', exec .theta s = .next t
      ∧ UnitStep s t { u with S := S' } (Reg.isS fun _ => true) nextUpc
      ∧ ∀ x y, laneXY s.params.wordOrder S' x y
          = laneXY s.params.wordOrder u.S x y
            ^^^ (parityOf s.params.wordOrder u.S (x + 4) ^^^ rotl64 (parityOf s.params.wordOrder u.S (x + 1)) 1)

/-- Rule R104: RHOPI, the walk. `c i` is the value carried into step i and `A i` the lanes before it. -/
def Obligations.RhopiWalksTheTable : Prop :=
  decode 0x1100 = .legal .rhopi ∧
  ∀ (s : State) (u : LaneUnit), s.unit? = some u →
    ∃ t S', exec .rhopi s = .next t
      ∧ UnitStep s t { u with S := S' } (Reg.isS fun k => decide (2 ≤ k)) nextUpc
      ∧ ∃ (c : Nat → LaneWord) (A : Nat → Fin 25 → LaneWord),
          c 0 = lane s.params.wordOrder u.S 1
          ∧ A 0 = lane s.params.wordOrder u.S
          ∧ (∀ i : Fin 24, c (i.val + 1) = A i.val (targetLane i)
              ∧ A (i.val + 1) = Function.update (A i.val) (targetLane i) (rotl64 (c i.val) (rotAmount i)))
          ∧ lane s.params.wordOrder S' = A 24

/-- The closed form of RHOPI that rule R110 derives: lane (x, y), rotated by rho[x][y], becomes lane
(y, 2x + 3y). -/
def Obligations.RhopiClosedForm : Prop :=
  ∀ (s : State) (u : LaneUnit), s.unit? = some u →
    ∃ t S', exec .rhopi s = .next t
      ∧ UnitStep s t { u with S := S' } (Reg.isS fun k => decide (2 ≤ k)) nextUpc
      ∧ ∀ x y, laneXY s.params.wordOrder S' y (2 * x + 3 * y)
          = rotl64 (laneXY s.params.wordOrder u.S x y) (rhoOffset x y)

/-- Rule R105: CHI. -/
def Obligations.ChiMixesRows : Prop :=
  decode 0x1200 = .legal .chi ∧
  ∀ (s : State) (u : LaneUnit), s.unit? = some u →
    ∃ t S', exec .chi s = .next t
      ∧ UnitStep s t { u with S := S' } (Reg.isS fun _ => true) nextUpc
      ∧ ∀ x y, laneXY s.params.wordOrder S' x y
          = laneXY s.params.wordOrder u.S x y
            ^^^ (~~~laneXY s.params.wordOrder u.S (x + 1) y &&& laneXY s.params.wordOrder u.S (x + 2) y)

/-- Rule R106: IOTA r. -/
def Obligations.IotaXorsRoundConstant : Prop :=
  (∀ r : Fin 24, decode (0x1300 + BitVec.ofNat 16 r.val) = .legal (.iota (BitVec.ofNat 5 r.val))) ∧
  ∀ (s : State) (u : LaneUnit) (r : Fin 24), s.unit? = some u →
    ∃ t S', exec (.iota (BitVec.ofNat 5 r.val)) s = .next t
      ∧ UnitStep s t { u with S := S' } (Reg.isS fun k => decide (k < 2)) nextUpc
      ∧ ∀ L, lane s.params.wordOrder S' L
          = if L = 0 then lane s.params.wordOrder u.S 0 ^^^ roundConstant r else lane s.params.wordOrder u.S L

/-- Rule R107: ROUND r leaves in S what THETA, RHOPI, CHI, IOTA r leave there one after the other, in one
step. -/
def Obligations.RoundIsItsFourSteps : Prop :=
  (∀ r : Fin 24, decode (0x1400 + BitVec.ofNat 16 r.val) = .legal (.round (BitVec.ofNat 5 r.val))) ∧
  ∀ (s : State) (u : LaneUnit) (r : Fin 24), s.unit? = some u →
    ∃ t m S', exec (.round (BitVec.ofNat 5 r.val)) s = .next t
      ∧ UnitStep s t { u with S := S' } (Reg.isS fun _ => true) nextUpc
      ∧ State.Runs [.theta, .rhopi, .chi, .iota (BitVec.ofNat 5 r.val)] s m
      ∧ m.unit? = some { u with S := S' }

/-- Rule R108: PERMUTE leaves in S what ROUND 0 to ROUND 23 leave there one after the other, in one step. -/
def Obligations.PermuteIsTwentyFourRounds : Prop :=
  decode 0x1500 = .legal .permute ∧
  ∀ (s : State) (u : LaneUnit), s.unit? = some u →
    ∃ t m S', exec .permute s = .next t
      ∧ UnitStep s t { u with S := S' } (Reg.isS fun _ => true) nextUpc
      ∧ State.Runs ((List.range 24).map fun r => .round (BitVec.ofNat 5 r)) s m
      ∧ m.unit? = some { u with S := S' }

/-- Rule R109, derived: PERMUTE as a function of lanes is the same under either WORD_ORDER. -/
def Obligations.PermuteIgnoresWordOrder : Prop :=
  ∀ (S T : Vector Word 50), (∀ L, lane .lowFirst S L = lane .highFirst T L) →
    ∀ (s s' : State) (u u' : LaneUnit), s.params.wordOrder = .lowFirst → s'.params.wordOrder = .highFirst →
      s.unit? = some u → s'.unit? = some u' → u.S = S → u'.S = T →
      ∃ t t' v v', exec .permute s = .next t ∧ exec .permute s' = .next t'
        ∧ t.unit? = some v ∧ t'.unit? = some v' ∧ ∀ L, lane .lowFirst v.S L = lane .highFirst v'.S L

/-- A round index of 24 to 31 belongs to no legal word. Answered with ILLEGAL_UOP and nothing else: the
model's choice, log 15 (rules R74 and R75 say so of a word). -/
def Obligations.IllFormedRoundIsIllegalUop : Prop :=
  ∀ (s : State) (r : BitVec 5), 24 ≤ r.toNat →
    exec (.iota r) s = .next (s.raise errIllegalUop) ∧ exec (.round r) s = .next (s.raise errIllegalUop)

/-! ## Hasher micro-ops -/

/-- Rule R130: CLEAR. -/
def Obligations.ClearZeroesState : Prop :=
  decode 0x2000 = .legal .clear ∧
  ∀ (s : State) (u : LaneUnit), s.unit? = some u →
    ∃ t S', exec .clear s = .next t
      ∧ UnitStep s t { u with S := S' } (Reg.isS fun _ => true) nextUpc
      ∧ ∀ k : Fin 50, S'.get k = 0

/-- Rule R131: ABSORB copies. -/
def Obligations.AbsorbCopiesInput : Prop :=
  decode 0x2100 = .legal .absorb ∧
  ∀ (s : State) (u : LaneUnit), s.unit? = some u →
    ∃ t S', exec .absorb s = .next t
      ∧ UnitStep s t { u with S := S' } (Reg.isS fun k => decide (k < 8)) nextUpc
      ∧ (∀ k : Fin 8, S'.get (leadingWord k) = u.IN.get k)
      ∧ ∀ k : Fin 50, 8 ≤ k.val → S'.get k = u.S.get k

/-- Rule R132: PAD, for the one input length the hardware has. -/
def Obligations.PadFlipsTwoBits : Prop :=
  decode 0x2200 = .legal .pad ∧
  ∀ (s : State) (u : LaneUnit), s.unit? = some u →
    ∃ t S', exec .pad s = .next t
      ∧ UnitStep s t { u with S := S' } (Reg.isS fun k => k == 8 || k == 33) nextUpc
      ∧ ∀ k : Fin 50, S'.get k = if k = 8 then u.S.get k ^^^ 0x00000001
          else if k = 33 then u.S.get k ^^^ 0x80000000 else u.S.get k

/-- Rule R133: EXTRACT. -/
def Obligations.ExtractCopiesDigest : Prop :=
  decode 0x2300 = .legal .extract ∧
  ∀ (s : State) (u : LaneUnit), s.unit? = some u →
    ∃ t D, exec .extract s = .next t
      ∧ UnitStep s t { u with DIG := D } Reg.isDig nextUpc
      ∧ ∀ k : Fin 8, D.get k = u.S.get (leadingWord k)

/-- Rule R134: HASH leaves on its lane unit what its five micro-ops leave there one after the other, in one
step. -/
def Obligations.HashIsItsFiveSteps : Prop :=
  decode 0x2400 = .legal .hash ∧
  ∀ (s : State) (u : LaneUnit), s.unit? = some u →
    ∃ t m S' D, exec .hash s = .next t
      ∧ UnitStep s t { u with S := S', DIG := D } (fun r => r.isS (fun _ => true) || r.isDig) nextUpc
      ∧ State.Runs [.clear, .absorb, .pad, .permute, .extract] s m
      ∧ m.unit? = some { u with S := S', DIG := D }

/-- Rule R136, derived: after CLEAR, ABSORB and PAD the words of S are the input, the two pad words and
zeros. -/
def Obligations.PaddingFootprint : Prop :=
  ∀ (s : State) (u : LaneUnit), s.unit? = some u →
    ∃ t S', State.Runs [.clear, .absorb, .pad] s t ∧ t.unit? = some { u with S := S' }
      ∧ (∀ k : Fin 8, S'.get (leadingWord k) = u.IN.get k)
      ∧ ∀ k : Fin 50, 8 ≤ k.val →
          S'.get k = if k = 8 then 0x00000001 else if k = 33 then 0x80000000 else 0

/-- Rule R135, derived: under LOW_FIRST, HASH leaves in DIG the textbook Keccak-256 of the 32 bytes of IN, in
the Keccak byte view of rule R52. -/
def Obligations.HashIsKeccak256 : Prop :=
  ∀ (s : State) (u : LaneUnit), s.params.wordOrder = .lowFirst → s.unit? = some u →
    ∃ t v, exec .hash s = .next t ∧ t.unit? = some v
      ∧ ∀ j : Fin 32, digestByte v.DIG j = Textbook.keccak256 (digestByte u.IN) j

/-- Rules R52 and R53, derived: the collaborator's byte view of a digest is the Keccak byte string with the
bytes of each word reversed. -/
def Obligations.CollaboratorViewReversesWords : Prop :=
  ∀ (D : Vector Word 8) (k : Fin 8) (b : Fin 4),
    collabByte D ⟨4 * k.val + b.val, by omega⟩ = digestByte D ⟨4 * k.val + 3 - b.val, by omega⟩

/-! ## Driver micro-ops -/

/-- Rule R152: GUARD, with its jump on a dispatch lane unit. -/
def Obligations.GuardSetsInactiveAndJumps : Prop :=
  decode 0x3000 = .legal .guard ∧
  ∀ (s : State) (u : LaneUnit), s.unit? = some u →
    ∃ t, exec .guard s = .next t
      ∧ UnitStep s t { u with inactive := decide (s.laneCount.toNat ≤ u.laneIndex.toNat) } (fun _ => false)
          (fun n => if s.laneCount.toNat ≤ u.laneIndex.toNat then 9 else n + 1)

/-- Rule R153: NONCE, a 32-bit addition with the carry detected by a compare. -/
def Obligations.NonceAddsIndexWithCarry : Prop :=
  decode 0x3100 = .legal .nonce ∧
  ∀ (s : State) (u : LaneUnit), s.unit? = some u →
    ∃ t lo hi, exec .nonce s = .next t
      ∧ UnitStep s t { u with nonceLo := lo, nonceHi := hi } Reg.isNonce nextUpc
      ∧ lo = s.baseNonceLo + u.laneIndex
      ∧ hi = if lo.toNat < s.baseNonceLo.toNat then s.baseNonceHi + 1 else s.baseNonceHi

/-- Rule R164, derived: the nonce is base + LANE_INDEX modulo 2^64, and lane units with different indices
derive different nonces. -/
def Obligations.NonceLaw : Prop :=
  ∀ (s s' : State) (u u' : LaneUnit), s.unit? = some u → s'.unit? = some u' →
    s'.baseNonceLo = s.baseNonceLo → s'.baseNonceHi = s.baseNonceHi →
    ∃ t t' v v', exec .nonce s = .next t ∧ t.unit? = some v ∧ exec .nonce s' = .next t' ∧ t'.unit? = some v'
      ∧ joinHalves v.nonceHi v.nonceLo
          = joinHalves s.baseNonceHi s.baseNonceLo + u.laneIndex.setWidth 64
      ∧ (u.laneIndex ≠ u'.laneIndex → joinHalves v.nonceHi v.nonceLo ≠ joinHalves v'.nonceHi v'.nonceLo)

/-- Rule R154: BUILD. -/
def Obligations.BuildLaysOutNonce : Prop :=
  decode 0x3200 = .legal .build ∧
  ∀ (s : State) (u : LaneUnit), s.unit? = some u →
    ∃ t I, exec .build s = .next t
      ∧ UnitStep s t { u with IN := I } Reg.isIn nextUpc
      ∧ ∀ k : Fin 8, I.get k = if k = 0 then u.nonceLo else if k = 1 then u.nonceHi else 0

/-- Rule R155: PACK on an inactive unit, on a slot that fits, and on one that does not. The last can happen
on the test unit only, the rule says; `PackOverflowOnLane` says what the model does on a dispatch lane unit. -/
def Obligations.PackWritesItsSlot : Prop :=
  decode 0x3300 = .legal .pack ∧
  ∀ (s : State) (u : LaneUnit), s.res.wf → s.unit? = some u →
    ∃ t, exec .pack s = .next t
      ∧ (u.inactive = true → UnitStep s t u (fun _ => false) nextUpc)
      ∧ (u.inactive = false → slotBase u.laneIndex + 10 ≤ s.params.resultsWords.val →
          UnitStep { s with res := t.res } t u (fun _ => false) nextUpc
          ∧ t.res.read (slotBase u.laneIndex) = some u.nonceLo
          ∧ t.res.read (slotBase u.laneIndex + 1) = some u.nonceHi
          ∧ (∀ k : Fin 8, t.res.read (slotBase u.laneIndex + 2 + k.val) = some (u.DIG.get k))
          ∧ ∀ a, a < slotBase u.laneIndex ∨ slotBase u.laneIndex + 10 ≤ a → t.res.read a = s.res.read a)
      ∧ (s.running = .test → u.inactive = false → s.params.resultsWords.val < slotBase u.laneIndex + 10 →
          t = s.raise errResultsOutOfBounds)

/-- PACK on a dispatch lane unit whose slot does not fit, which no run reaches (`LaneStepsRaiseNothing`): it
raises RESULTS_OUT_OF_BOUNDS and the upc moves on, the model's choice, log 19. -/
def Obligations.PackOverflowOnLane : Prop :=
  ∀ (s : State) (u : LaneUnit) (i : Word), s.running = .lane i → s.unit? = some u → u.inactive = false →
    s.params.resultsWords.val < slotBase u.laneIndex + 10 →
    ∃ t, exec .pack s = .next t ∧ UnitStep (s.raise errResultsOutOfBounds) t u (fun _ => false) nextUpc

/-- Rule R156: HALT ends a dispatch lane execution, changing nothing else, and has no effect on the test
unit. -/
def Obligations.HaltEndsLane : Prop :=
  decode 0x3F00 = .legal .halt ∧
  (∀ s : State, s.running = .test → exec .halt s = .next s) ∧
  ∀ (s : State) (i : Word) (l : LaneExec), s.running = .lane i → s.lane? i = some l →
    ∃ t, exec .halt s = .next t ∧ t.lane? i = none ∧ (∀ j, j ≠ i → t.lane? j = s.lane? j)
      ∧ (∀ l', l' ∈ t.lanes ↔ l' ∈ s.lanes ∧ l'.unit.laneIndex ≠ i) ∧ t = { s with lanes := t.lanes }

/-- Every micro-op answers a next state on every lane unit that exists: none stops (rules R102, R180). -/
def Obligations.EveryMicroOpCompletes : Prop :=
  ∀ (i : Instr) (s : State) (u : LaneUnit), s.unit? = some u → ∃ t, exec i s = .next t

/-! ## Errors and STATUS -/

/-- Rule R184: raising an error sets ERR, sets ERRCODE if ERR was 0, and changes nothing else. -/
def Obligations.RaiseKeepsFirstCode : Prop :=
  ∀ (s : State) (c : BitVec 4),
    (s.raise c).err = true
      ∧ (s.err = false → (s.raise c).errCode = c)
      ∧ (s.err = true → (s.raise c).errCode = s.errCode)
      ∧ s.raise c = { s with err := (s.raise c).err, errCode := (s.raise c).errCode }

/-- Rule R185 and the W1C bits of rule R37: a STATUS write, accepted in any state, clears DONE with bit 1, and
ERR and ERRCODE with bit 2, and changes nothing else; until then a further error changes nothing. -/
def Obligations.StatusWriteClearsFlags : Prop :=
  ∀ (s : State) (v : Word),
    ∃ t, s.hostEvent (.writeReg 0x01 v) = .next t
      ∧ t.done = (s.done && !v.getLsbD 1)
      ∧ t.err = (s.err && !v.getLsbD 2)
      ∧ t.errCode = (if v.getLsbD 2 then 0 else s.errCode)
      ∧ t = { s with done := t.done, err := t.err, errCode := t.errCode }
      ∧ ∀ c, s.err = true → s.raise c = s

/-- The layout of STATUS in rule R37, as a host read returns it: BUSY bit 0, DONE bit 1, ERR bit 2, ERRCODE
bits 7:4, every other bit 0. -/
def Obligations.StatusReadLayout : Prop :=
  ∀ s : State, Reg.status ∉ s.unwritten →
    ∃ w : Word, s.hostEvent (.readReg 0x01) = .next (s.reply w)
      ∧ w.getLsbD 0 = s.busy ∧ w.getLsbD 1 = s.done ∧ w.getLsbD 2 = s.err ∧ w.getLsbD 3 = false
      ∧ w.extractLsb' 4 4 = s.errCode ∧ w.extractLsb' 8 24 = 0

/-- Rule R47: while BUSY = 1 a host write to any REG address but STATUS, and to RES, is dropped and raises
HOST_WRITE_BUSY. -/
def Obligations.BusyDropsHostWrites : Prop :=
  ∀ (s : State) (v : Word), s.busy = true →
    (∀ a : BitVec 8, a ≠ 0x01 → s.hostEvent (.writeReg a v) = .next (s.raise errHostWriteBusy))
      ∧ ∀ a : Nat, s.hostEvent (.writeRes a v) = .next (s.raise errHostWriteBusy)

/-- Rule R57: host accesses of RES out of range. -/
def Obligations.ResOutOfRange : Prop :=
  ∀ (s : State) (a : Nat) (v : Word), s.params.resultsWords.val ≤ a →
    s.hostEvent (.readRes a) = .next ((s.raise errResultsOutOfBounds).reply 0)
      ∧ (s.busy = false → s.hostEvent (.writeRes a v) = .next (s.raise errResultsOutOfBounds))

/-! ## Host accesses -/

/-- Rules R48 and R62: an idle host write of RES stores the word, and a host read returns it; an idle host read
returns whatever word RES holds, by a host write or by a PACK, and a free draw where it holds none (log 3). -/
def Obligations.ResWriteThenRead : Prop :=
  ∀ (s : State) (a : Nat) (v : Word), s.busy = false → a < s.params.resultsWords.val →
    (s.res.wf →
      ∃ t, s.hostEvent (.writeRes a v) = .next t
        ∧ t.hostEvent (.readRes a) = .next (t.reply v)
        ∧ (∀ b, b ≠ a → t.res.read b = s.res.read b)
        ∧ t = { s with res := t.res })
      ∧ (s.res.read a = some v → s.hostEvent (.readRes a) = .next (s.reply v))
      ∧ (s.res.read a = none → s.hostEvent (.readRes a) = .next (s.reply (Config.freeWord s.tick)))

/-- Rule R61: a host read of RES while BUSY = 1 returns the word as it stood at START or as it is. -/
def Obligations.RacingReadIsOldOrNew : Prop :=
  ∀ (s : State) (a : Nat) (v w : Word), s.busy = true → a < s.params.resultsWords.val →
    s.resAtStart.read a = some v → s.res.read a = some w →
    s.hostEvent (.readRes a) = .next (s.reply v) ∨ s.hostEvent (.readRes a) = .next (s.reply w)

/-- Rules R35 and R45: a host write to a read/write register (the addresses listed) stores the word in the
register that the map gives the address (`MapRow`), and a host read then returns it; no other register changes,
and nothing else does but the UNSPECIFIED mark of that one (log 3). -/
def Obligations.RegisterWriteThenRead : Prop :=
  ∀ (s : State) (a : BitVec 8) (v : Word), s.busy = false →
    (a ∈ [0x02, 0x05, 0x08, 0x09, 0x0A, 0x0C, 0x0D, 0x0E, 0x0F]
      ∨ (0x10 ≤ a.toNat ∧ a.toNat ≤ 0x17) ∨ (0x40 ≤ a.toNat ∧ a.toNat ≤ 0x71)) →
    ∃ t, s.hostEvent (.writeReg a v) = .next t
      ∧ t.MapRow a (regAt a) v
      ∧ t.hostEvent (.readReg a) = .next (t.reply v)
      ∧ (∀ r, r ≠ regAt a → t.regValue r = s.regValue r)
      ∧ (∀ r, r ∈ t.unwritten ↔ r ∈ s.unwritten ∧ r ≠ regAt a)
      ∧ t = { s with
          launchWidth := t.launchWidth, baseNonceLo := t.baseNonceLo, baseNonceHi := t.baseNonceHi
          laneCount := t.laneCount, patternValue := t.patternValue, patternType := t.patternType
          patternLength := t.patternLength, patternReserved := t.patternReserved, test := t.test
          unwritten := t.unwritten }

/-- Rule R46: host writes to reserved addresses and to read-only registers are ignored with no error, and a
host read of a reserved address returns 0. -/
def Obligations.ReservedAndReadOnlyWritesIgnored : Prop :=
  ∀ (s : State) (a : BitVec 8) (v : Word), s.busy = false →
    ((a ∈ [0x03, 0x06] ∨ (0x18 ≤ a.toNat ∧ a.toNat ≤ 0x21)) → s.hostEvent (.writeReg a v) = .next s)
      ∧ ((a ∈ [0x07, 0x0B] ∨ (0x22 ≤ a.toNat ∧ a.toNat ≤ 0x3F) ∨ 0x72 ≤ a.toNat) →
          s.hostEvent (.writeReg a v) = .next s
            ∧ (Reg.reserved ∉ s.unwritten → s.hostEvent (.readReg a) = .next (s.reply 0)))

/-- Host reads of REG (rules R36, R39, R40, R41, R45, R49, R56): a read changes nothing and returns one word; of
an UNSPECIFIED register a free draw, whose form, a constant with no body applied to the tick, is the model's
(log 3); of any other register of the map that holds data, the test unit's included, what the register holds
(`MapRow`); of CTRL and TEST_UOP 0; of RESULTS_WORDS the parameter, saturated; of TEST_FLAGS INACTIVE. -/
def Obligations.RegisterReads : Prop :=
  ∀ (s : State) (a : BitVec 8), ∃ w : Word, s.hostEvent (.readReg a) = .next (s.reply w)
    ∧ (regAt a ∈ s.unwritten → w = Config.freeWord s.tick)
    ∧ (regAt a ∉ s.unwritten → s.MapRow a (regAt a) w)
    ∧ (regAt a ∉ s.unwritten → a = 0x00 ∨ a = 0x04 → w = 0)
    ∧ (regAt a ∉ s.unwritten → a = 0x03 → w.toNat = min s.params.resultsWords.val 0xFFFFFFFF)
    ∧ (regAt a ∉ s.unwritten → a = 0x06 → w = if s.test.inactive then 1 else 0)

/-! ## Dispatch -/

/-- Rules R157 and R158: START while BUSY = 1 is dropped and raises HOST_WRITE_BUSY; while BUSY = 0 it is
refused with RESULTS_TOO_SMALL and nothing else, or accepted: lane executions are created with the indices 0
to P-1, each at upc 0 with INACTIVE 0. A CTRL write with bit 0 = 0 does nothing (rule R36). That an accepted
START also notes RES as it stands is the model's (log 8). -/
def Obligations.StartChecksThenLaunches : Prop :=
  ∀ (s : State) (v : Word),
    (s.busy = true → v.getLsbD 0 = true → s.hostEvent (.writeReg 0x00 v) = .next (s.raise errHostWriteBusy))
      ∧ (s.busy = false → v.getLsbD 0 = false → s.hostEvent (.writeReg 0x00 v) = .next s)
      ∧ (s.busy = false → v.getLsbD 0 = true →
          s.params.resultsWords.val < 10 * min s.launchWidth.toNat s.laneCount.toNat →
          s.hostEvent (.writeReg 0x00 v) = .next (s.raise errResultsTooSmall))
      ∧ (s.busy = false → v.getLsbD 0 = true →
          10 * min s.launchWidth.toNat s.laneCount.toNat ≤ s.params.resultsWords.val →
          ∃ t, s.hostEvent (.writeReg 0x00 v) = .next t
            ∧ t = { s with done := false, busy := true, lanes := t.lanes, resAtStart := s.res }
            ∧ t.lanes.length = s.launchWidth.toNat
            ∧ ∀ i < s.launchWidth.toNat, ∃ l, t.lanes[i]? = some l
                ∧ l.unit.laneIndex.toNat = i ∧ l.upc = 0 ∧ l.unit.inactive = false)

/-- The ROM of rule R150: ten micro-ops, all legal, and no more. -/
def Obligations.MicroprogramRom : Prop :=
  (List.range 16).map (fun n => (romWord (BitVec.ofNat 4 n)).map decode)
    = ([.guard, .nonce, .build, .clear, .absorb, .pad, .permute, .extract, .pack, .halt].map
        fun i => some (Decoded.legal i)) ++ List.replicate 6 none

/-- Rule R160: with BUSY = 1, no lane execution left and no host access pending, the step is the completion
step. -/
def Obligations.CompletionStep : Prop :=
  ∀ s : State, s.busy = true → s.lanes = [] → s.inbox = [] →
    step s = .next { s with busy := false, done := true, tick := s.tick + 1 }

/-! ## The step -/

/-- Rule R163: the next host access a TEST_UOP write, and BUSY = 0: the step runs the decoded micro-op on the
test unit, or raises ILLEGAL_UOP. Around it the step takes the access off the host's list and moves the
tick (logs 10 and 11). -/
def Obligations.TestUopStepRunsInstruction : Prop :=
  ∀ (s : State) (v : Word) (rest : List HostEvent), s.busy = false → s.inbox = .writeReg 0x04 v :: rest →
    (∀ i, decodeTestUop v = .legal i →
        step s = exec i { s with inbox := rest, tick := s.tick + 1, running := .test })
      ∧ ((∀ i, decodeTestUop v ≠ .legal i) →
        step s = .next (State.raise { s with inbox := rest, tick := s.tick + 1 } errIllegalUop))

/-- Rule R151: when a live lane execution moves, the step runs the ROM's micro-op at its upc on its lane
unit. -/
def Obligations.LaneStepRunsRomInstruction : Prop :=
  ∀ (s : State) (i : Word) (l : LaneExec) (w : UopWord) (op : Instr),
    s.pick = some (.lane i) → s.lane? i = some l → microprogram[l.upc.toNat]? = some w → decode w = .legal op →
    step s = exec op { s with tick := s.tick + 1, running := .lane i }

/-- Rules R63 and R194: while BUSY = 0 the engine takes no step until the host's next access, and then the step
is that access; while BUSY = 1 it is, whenever the host is the one that moves. That an idle step answers the
same state is the model's form of taking none (log 14). -/
def Obligations.HostStepTakesNextAccess : Prop :=
  ∀ (s : State), (s.busy = false → s.inbox = [] → step s = .next s)
    ∧ ∀ (e : HostEvent) (rest : List HostEvent), s.inbox = e :: rest → s.busy = false ∨ s.pick = some .host →
        step s = State.hostEvent { s with inbox := rest, tick := s.tick + 1 } e

/-! ## Reset -/

/-- The values rule R49 gives for the state after reset. -/
def Obligations.ResetValues : Prop :=
  State.reset.statusWord = 0
    ∧ State.reset.testFlagsWord = 0
    ∧ State.reset.lanes = []
    ∧ State.reset.res = []
    ∧ (∀ r, r ∈ State.reset.unwritten ↔
        r ∈ [.launchWidth, .testLaneIndex, .baseNonceLo, .baseNonceHi, .laneCount, .patternValue, .patternType,
          .patternLength, .patternReserved, .testNonceLo, .testNonceHi]
        ∨ (∃ k, r = .testIn k) ∨ (∃ k, r = .testDig k) ∨ ∃ k, r = .testS k)

/-- Rule R210: the reset event, from any state, a dispatch in flight included: STATUS and INACTIVE 0, every
register and every RES word of rule R49's table UNSPECIFIED, no lane execution; the parameters stay. That
the host's list, the words read and the tick stay is the model's (logs 10, 11, 13). -/
def Obligations.ResetEventDiscardsDispatch : Prop :=
  ∀ s : State, ∃ t, s.hostEvent .reset = .next t
    ∧ t.statusWord = 0 ∧ t.testFlagsWord = 0 ∧ t.lanes = [] ∧ t.res = []
    ∧ t.unwritten = State.reset.unwritten ∧ t.params = s.params
    ∧ t.inbox = s.inbox ∧ t.replies = s.replies ∧ t.tick = s.tick

/-! ## The whole machine -/

/-- The invariant holds right after reset. -/
def Obligations.ResetMeetsInvariant : Prop := State.reset.Inv

/-- Every step keeps the invariant: RES stays canonical and in range, ERRCODE stays a legal code, and a
dispatch in flight stays where rules R150 to R162 put it. -/
def Obligations.StepKeepsInvariant : Prop :=
  ∀ s t : State, s.Inv → step s = .next t → t.Inv

/-- Rule R180, clause 3: the engine carries on. From every state that meets the invariant the step answers a
next state. -/
def Obligations.InvariantStateSteps : Prop :=
  ∀ s : State, s.Inv → ∃ t, step s = .next t

/-- Rule R21: no step, not even a reset, changes the parameters. -/
def Obligations.StepsKeepParameters : Prop :=
  ∀ s t : State, step s = .next t → t.params = s.params

/-- Rules R22, R23, R47: while a dispatch is in flight no step but the reset event changes the configuration or the
test unit. Nor does one change the model's note of RES as it stood at START (log 8). -/
def Obligations.DispatchKeepsConfiguration : Prop :=
  ∀ s t : State, s.Inv → s.busy = true → ¬(s.pick = some .host ∧ s.inbox.head? = some .reset) → step s = .next t →
    t.launchWidth = s.launchWidth ∧ t.laneCount = s.laneCount
      ∧ t.baseNonceLo = s.baseNonceLo ∧ t.baseNonceHi = s.baseNonceHi
      ∧ t.patternValue = s.patternValue ∧ t.patternType = s.patternType
      ∧ t.patternLength = s.patternLength ∧ t.patternReserved = s.patternReserved
      ∧ t.test = s.test ∧ t.unwritten = s.unwritten ∧ t.resAtStart = s.resAtStart

/-- Rule R181, derived there: no lane execution of a dispatch raises an error. -/
def Obligations.LaneStepsRaiseNothing : Prop :=
  ∀ (s t : State) (i : Word), s.Inv → s.busy = true → s.laneStep i = .next t →
    t.err = s.err ∧ t.errCode = s.errCode

/-- Rule R192, derived: the steps of two lane executions commute, up to the model's note of which unit ran
last. -/
def Obligations.LaneStepsCommute : Prop :=
  ∀ (s : State) (i j : Word) (l m : LaneExec), s.Inv → s.busy = true → i ≠ j →
    s.lane? i = some l → s.lane? j = some m →
    ∃ a b ab ba, s.laneStep i = .next a ∧ a.laneStep j = .next ab
      ∧ s.laneStep j = .next b ∧ b.laneStep i = .next ba
      ∧ { ab with running := .test } = { ba with running := .test }

/-- Rules R160, R161 and R197, derived: whatever the schedule and whatever the host does but reset, a dispatch
in flight completes within the lane steps left, the host accesses pending and one step more, and RES then
holds its results. -/
def Obligations.DispatchInFlightCompletes : Prop :=
  ∀ s : State, s.Inv → s.busy = true → HostEvent.reset ∉ s.inbox →
    ∃ k t, k ≤ s.laneStepsLeft + s.inbox.length + 1 ∧ Host.Core.run core k s = .next t
      ∧ t.busy = false ∧ t.done = true
      ∧ State.DispatchResult { s with res := s.resAtStart } t.res

/-- Rules R157 to R162, derived: a START of a dispatch that fits, with no other host access pending, runs to
completion under every schedule: RES then holds the record of every active lane index and elsewhere what it
held before; no error is raised and the test unit is as it was. -/
def Obligations.StartedDispatchDelivers : Prop :=
  ∀ (s : State) (v : Word), s.Inv → s.busy = false → s.inbox = [.writeReg 0x00 v] → v.getLsbD 0 = true →
    10 * s.activeLanes ≤ s.params.resultsWords.val →
    ∃ k t, k ≤ 10 * s.launchWidth.toNat + 2 ∧ Host.Core.run core k s = .next t
      ∧ t.busy = false ∧ t.done = true ∧ t.lanes = []
      ∧ s.DispatchResult t.res
      ∧ t.err = s.err ∧ t.errCode = s.errCode ∧ t.test = s.test
      ∧ t.launchWidth = s.launchWidth ∧ t.laneCount = s.laneCount
      ∧ t.baseNonceLo = s.baseNonceLo ∧ t.baseNonceHi = s.baseNonceHi

/-- Rule R213, by the step that follows it to the letter: `strictStep` faults on a START that reads an UNSPECIFIED
LAUNCH_WIDTH or LANE_COUNT, on a micro-op on the test unit and on a lane step that read an UNSPECIFIED register; where
the next step reads none it is the step. And then what the UNSPECIFIED registers hold has no effect: two states that
agree on everything else answer states that agree on everything else, the words returned to the host among them. So
nothing rests on the values after reset (log 1), nor on `step` going on where `strictStep` faults (log 2). -/
def Obligations.UnspecifiedValuesDoNotMatter : Prop :=
  (∀ (s : State) (v : Word) (rest : List HostEvent), s.busy = false → s.inbox = .writeReg 0x00 v :: rest →
      v.getLsbD 0 = true → Reg.launchWidth ∈ s.unwritten ∨ Reg.laneCount ∈ s.unwritten →
      strictStep s = .fault .unspecifiedRead)
    ∧ (∀ (s : State) (v : Word) (rest : List HostEvent) (i : Instr) (r : Reg), s.busy = false →
        s.inbox = .writeReg 0x04 v :: rest → decodeTestUop v = .legal i → r ∈ s.unwritten →
        Instr.reads s.test.inactive i r = true → strictStep s = .fault .unspecifiedRead)
    ∧ (∀ (s : State) (i : Word) (l : LaneExec) (w : UopWord) (op : Instr) (r : Reg), s.pick = some (.lane i) →
        s.lane? i = some l → microprogram[l.upc.toNat]? = some w → decode w = .legal op → r ∈ s.unwritten →
        r.isLaneConfig = true → Instr.reads false op r = true → strictStep s = .fault .unspecifiedRead)
    ∧ (∀ s t : State, strictStep s = .next t → step s = .next t)
    ∧ ∀ s s' t : State, AgreeOnWritten s s' → s.readsUnspecified = false → step s = .next t →
        ∃ t', strictStep s = .next t ∧ strictStep s' = .next t' ∧ step s' = .next t' ∧ AgreeOnWritten t t'
end

