-- ==== Sys2Proof/Laws/Host.lean ====
section
/-! SUPPORT. What a host access and a step can do, case by case. -/
namespace Sys2Proof.Machine

variable {s : State}

/-- A REG write other than to STATUS while BUSY = 0. -/
theorem State.hostWriteReg_idle (hb : s.busy = false) {a : BitVec 8} (ha : regAt a ≠ .status) (v : Word) :
    s.hostWriteReg a v = s.writeRegIdle (regAt a) v := by
  rw [State.hostWriteReg, if_neg ha, if_neg (by simp [hb])]

/-- A REG write other than to STATUS while BUSY = 1. -/
theorem State.hostWriteReg_busy (hb : s.busy = true) {a : BitVec 8} (ha : regAt a ≠ .status) (v : Word) :
    s.hostWriteReg a v = .next (s.raise errHostWriteBusy) := by
  rw [State.hostWriteReg, if_neg ha, if_pos hb]

/-- A RES read in range while BUSY = 0: the word RES holds, or a free draw. -/
theorem State.hostReadRes_idle (hb : s.busy = false) {a : Nat} (ha : a < s.params.resultsWords.val) :
    s.hostReadRes a = s.reply ((s.res.read a).getD (Config.freeWord s.tick)) := by
  rw [State.hostReadRes, if_pos ha, State.resWord, State.visibleRes, hb]
  rfl

/-- A RES write in range while BUSY = 0. -/
theorem State.hostWriteRes_idle (hb : s.busy = false) {a : Nat} (ha : a < s.params.resultsWords.val) (v : Word) :
    s.hostWriteRes a v = { s with res := s.res.write a v } := by
  rw [State.hostWriteRes, if_neg (by simp [hb]), if_pos ha]

/-- A RES write while BUSY = 1. -/
theorem State.hostWriteRes_busy (hb : s.busy = true) (a : Nat) (v : Word) :
    s.hostWriteRes a v = s.raise errHostWriteBusy := by
  rw [State.hostWriteRes, if_pos hb]

/-- START of a dispatch whose active slots fit. -/
theorem State.start_of_fits (h : 10 * s.activeLanes ≤ s.params.resultsWords.val) :
    s.start = { s with
      done := false, busy := true
      lanes := (List.range s.launchWidth.toNat).map (LaneExec.launched s.tick), resAtStart := s.res } := by
  rw [State.start, if_pos h]

/-- START of a dispatch whose active slots do not fit. -/
theorem State.start_of_tooSmall (h : s.params.resultsWords.val < 10 * s.activeLanes) :
    s.start = s.raise errResultsTooSmall := by
  rw [State.start, if_neg (Nat.not_le.2 h)]

/-- While BUSY = 0 the host moves, if it has an access pending. -/
theorem State.pick_idle (hb : s.busy = false) : s.pick = if s.inbox = [] then none else some .host := by
  unfold State.pick State.enabled
  rw [hb]
  cases s.inbox <;> rfl

/-- The agent that moves is one that can. -/
theorem State.pick_mem {a : Agent} (h : s.pick = some a) : a ∈ s.enabled := by
  unfold State.pick at h
  split at h
  · cases h
  · rename_i b hb
    injection h with h
    simp [hb, h]
  · rename_i b rest _ hb
    rw [hb]
    exact List.mem_of_getElem? h

/-- Some agent moves whenever one can. -/
theorem State.pick_isSome (h : s.enabled ≠ []) : ∃ a, s.pick = some a := by
  unfold State.pick
  split
  · contradiction
  · exact ⟨_, rfl⟩
  · rename_i b rest _ hb
    exact ⟨_, List.getElem?_eq_getElem (by
      simp only [List.length_cons]
      exact Nat.mod_lt _ (Nat.succ_pos _))⟩

/-- Which agents can move. -/
theorem State.mem_enabled {a : Agent} : a ∈ s.enabled ↔
    (a = .host ∧ s.inbox ≠ [])
      ∨ (s.busy = true ∧ ((a = .controller ∧ s.lanes = []) ∨ ∃ l ∈ s.lanes, a = .lane l.unit.laneIndex)) := by
  unfold State.enabled State.dispatchAgents
  rw [List.mem_append]
  refine or_congr ?_ ?_
  · cases s.inbox <;> simp
  · cases hb : s.busy
    · simp
    · cases hl : s.lanes <;> simp [eq_comm]

/-- A step with an agent to move is that agent's. -/
theorem step_of_pick {a : Agent} (h : s.pick = some a) : step s = s.nextTick.agentStep a := by
  rw [step, State.machineStep, h]

/-- A run of one step more, on any machine. -/
theorem run_succ_of_step (M : Host.Core) {a b : M.State} (h : M.step a = .next b) (k : Nat) :
    M.run (k + 1) a = M.run k b := by
  rw [Host.Core.run, h]

/-- A run of one step more. -/
theorem run_succ {t : State} (h : step s = .next t) (k : Nat) :
    Host.Core.run core (k + 1) s = Host.Core.run core k t := run_succ_of_step core h k

/-- A step with no agent to move changes nothing. -/
theorem step_of_idle (h : s.pick = none) : step s = .next s := by
  rw [step, State.machineStep, h]

/-- The step of the host. -/
theorem step_host {e : HostEvent} {rest : List HostEvent} (h : s.pick = some .host) (hi : s.inbox = e :: rest) :
    step s = State.hostEvent { s with inbox := rest, tick := s.tick + 1 } e := by
  rw [step_of_pick h]
  simp only [State.agentStep, State.hostStep, State.nextTick, hi]

/-- The step of a live lane execution at a ROM entry. -/
theorem State.laneStep_of_rom {i : Word} {l : LaneExec} {w : UopWord} {op : Instr} (hl : s.lane? i = some l)
    (hw : microprogram[l.upc.toNat]? = some w) (hd : decode w = .legal op) :
    s.laneStep i = exec op { s with running := .lane i } := by
  unfold State.laneStep
  rw [hl]
  simp only [romWord, hw, Option.map_some, hd]

end Sys2Proof.Machine
end

