-- ==== Sys2Proof/Laws/Lanes.lean ====
section
/-! SUPPORT. The lane view of S: setting every lane and reading one back, under either WORD_ORDER
(rule R10). -/
namespace Sys2Proof.Machine

/-- The bits of `high : low`. -/
theorem getLsbD_joinHalves (h l : Word) (i : Nat) :
    (joinHalves h l).getLsbD i = if i < 32 then l.getLsbD i else h.getLsbD (i - 32) := by
  have := BitVec.getLsbD_append (x := h) (y := l) (i := i)
  simpa [joinHalves] using this

@[simp] theorem hiHalf_joinHalves (h l : Word) : hiHalf (joinHalves h l) = h := by
  refine BitVec.eq_of_getLsbD_eq fun i hi => ?_
  simp [hiHalf, getLsbD_joinHalves, hi]

@[simp] theorem loHalf_joinHalves (h l : Word) : loHalf (joinHalves h l) = l := by
  refine BitVec.eq_of_getLsbD_eq fun i hi => ?_
  simp [loHalf, getLsbD_joinHalves, hi]

@[simp] theorem joinHalves_halves (v : LaneWord) : joinHalves (hiHalf v) (loHalf v) = v := by
  refine BitVec.eq_of_getLsbD_eq fun i hi => ?_
  rw [getLsbD_joinHalves]
  split
  · simp [loHalf, *]
  · simp only [hiHalf, BitVec.getLsbD_extractLsb']
    rw [show 32 + (i - 32) = i by omega]
    simp [show i - 32 < 32 by omega]

/-- Two lanes with equal halves are equal. -/
theorem laneWord_ext {v w : LaneWord} (hh : hiHalf v = hiHalf w) (hl : loHalf v = loHalf w) : v = w := by
  rw [← joinHalves_halves v, ← joinHalves_halves w, hh, hl]

/-! ### Reading a vector that has been built or changed -/

@[simp] theorem get_ofFn {α : Type} {n : Nat} (f : Fin n → α) (i : Fin n) : (Vector.ofFn f).get i = f i := by
  simp [Vector.get_eq_getElem]

theorem get_set {α : Type} {n : Nat} (A : Vector α n) (i : Nat) (v : α) (h : i < n) (j : Fin n) :
    (A.set i v h).get j = if i = j.val then v else A.get j := by
  simp [Vector.get_eq_getElem, Vector.getElem_set]

@[simp] theorem get_replicate {α : Type} {n : Nat} (v : α) (i : Fin n) : (Vector.replicate n v).get i = v := by
  simp [Vector.get_eq_getElem]

/-- Two vectors are equal if they are entry by entry. -/
theorem vector_ext {α : Type} {n : Nat} {A B : Vector α n} (h : ∀ i, A.get i = B.get i) : A = B :=
  Vector.ext fun i hi => by simpa [Vector.get_eq_getElem] using h ⟨i, hi⟩

/-! ### Lanes and words -/

@[simp] theorem laneOfWord_hiIndex (wo : WordOrder) (L : Fin 25) : laneOfWord (hiIndex wo L) = L := by
  cases wo <;> simp only [laneOfWord, hiIndex, Fin.ext_iff] <;> omega

@[simp] theorem laneOfWord_loIndex (wo : WordOrder) (L : Fin 25) : laneOfWord (loIndex wo L) = L := by
  cases wo <;> simp only [laneOfWord, loIndex, Fin.ext_iff] <;> omega

theorem loIndex_ne_hiIndex (wo : WordOrder) (L : Fin 25) : loIndex wo L ≠ hiIndex wo L := by
  cases wo <;> simp only [hiIndex, loIndex, ne_eq, Fin.ext_iff] <;> omega

/-- A word of S is one of the two of its lane. -/
theorem word_cases (wo : WordOrder) (k : Fin 50) :
    k = hiIndex wo (laneOfWord k) ∨ k = loIndex wo (laneOfWord k) := by
  cases wo <;> simp only [hiIndex, loIndex, laneOfWord, Fin.ext_iff] <;> omega

@[simp] theorem halfOf_hiIndex (wo : WordOrder) (L : Fin 25) (v : LaneWord) :
    halfOf wo (hiIndex wo L) v = hiHalf v := by
  unfold halfOf
  rw [laneOfWord_hiIndex, if_pos rfl]

@[simp] theorem halfOf_loIndex (wo : WordOrder) (L : Fin 25) (v : LaneWord) :
    halfOf wo (loIndex wo L) v = loHalf v := by
  unfold halfOf
  rw [laneOfWord_loIndex, if_neg (loIndex_ne_hiIndex wo L)]

/-- A word of S is its half of its lane. -/
@[simp] theorem halfOf_lane (wo : WordOrder) (S : Vector Word 50) (k : Fin 50) :
    halfOf wo k (lane wo S (laneOfWord k)) = S.get k := by
  rcases word_cases wo k with h | h
  · conv_lhs => rw [h]
    rw [halfOf_hiIndex, laneOfWord_hiIndex, lane, hiHalf_joinHalves, ← h]
  · conv_lhs => rw [h]
    rw [halfOf_loIndex, laneOfWord_loIndex, lane, loHalf_joinHalves, ← h]

/-- A word of an S whose every lane has been set. -/
@[simp] theorem get_ofLanes (wo : WordOrder) (A : Lanes) (k : Fin 50) :
    (ofLanes wo A).get k = halfOf wo k (A.get (laneOfWord k)) := by
  unfold ofLanes
  rw [get_ofFn]

/-- Lane L of an S whose every lane has been set. -/
@[simp] theorem lane_ofLanes (wo : WordOrder) (A : Lanes) (L : Fin 25) : lane wo (ofLanes wo A) L = A.get L := by
  unfold lane
  rw [get_ofLanes, get_ofLanes, halfOf_hiIndex, halfOf_loIndex, laneOfWord_hiIndex, laneOfWord_loIndex,
    joinHalves_halves]

@[simp] theorem get_toLanes (wo : WordOrder) (S : Vector Word 50) (L : Fin 25) :
    (toLanes wo S).get L = lane wo S L := by
  unfold toLanes
  rw [get_ofFn]

@[simp] theorem toLanes_ofLanes (wo : WordOrder) (A : Lanes) : toLanes wo (ofLanes wo A) = A :=
  vector_ext fun L => by rw [get_toLanes, lane_ofLanes]

@[simp] theorem ofLanes_toLanes (wo : WordOrder) (S : Vector Word 50) : ofLanes wo (toLanes wo S) = S :=
  vector_ext fun k => by rw [get_ofLanes, get_toLanes, halfOf_lane]

/-- Two values of S with the same lanes are the same. -/
theorem ext_lane {wo : WordOrder} {S T : Vector Word 50} (h : ∀ L, lane wo S L = lane wo T L) : S = T := by
  rw [← ofLanes_toLanes wo S, ← ofLanes_toLanes wo T,
    vector_ext (A := toLanes wo S) (B := toLanes wo T) fun L => by rw [get_toLanes, get_toLanes, h L]]

/-- Lane (x, y), found from its number. -/
@[simp] theorem laneAt_xOf_yOf (L : Fin 25) : laneAt (xOf L) (yOf L) = L := by
  simp only [laneAt, xOf, yOf, Fin.ext_iff]
  omega

@[simp] theorem xOf_laneAt (x y : Fin 5) : xOf (laneAt x y) = x := by
  simp only [laneAt, xOf, Fin.ext_iff]
  omega

@[simp] theorem yOf_laneAt (x y : Fin 5) : yOf (laneAt x y) = y := by
  simp only [laneAt, yOf, Fin.ext_iff]
  omega

end Sys2Proof.Machine
end

