-- ==== Sys2Proof/Laws/State.lean ====
section
/-! SUPPORT. What each named update of State does to each field, one small lemma a field. -/
namespace Sys2Proof.Machine

variable (s : State)

/-! ### raise -/

@[simp] theorem State.raise_params (c : BitVec 4) : (s.raise c).params = s.params := rfl
@[simp] theorem State.raise_busy (c : BitVec 4) : (s.raise c).busy = s.busy := rfl
@[simp] theorem State.raise_done (c : BitVec 4) : (s.raise c).done = s.done := rfl
@[simp] theorem State.raise_err (c : BitVec 4) : (s.raise c).err = true := rfl
@[simp] theorem State.raise_errCode (c : BitVec 4) : (s.raise c).errCode = if s.err then s.errCode else c := rfl
@[simp] theorem State.raise_launchWidth (c : BitVec 4) : (s.raise c).launchWidth = s.launchWidth := rfl
@[simp] theorem State.raise_baseNonceLo (c : BitVec 4) : (s.raise c).baseNonceLo = s.baseNonceLo := rfl
@[simp] theorem State.raise_baseNonceHi (c : BitVec 4) : (s.raise c).baseNonceHi = s.baseNonceHi := rfl
@[simp] theorem State.raise_laneCount (c : BitVec 4) : (s.raise c).laneCount = s.laneCount := rfl
@[simp] theorem State.raise_patternValue (c : BitVec 4) : (s.raise c).patternValue = s.patternValue := rfl
@[simp] theorem State.raise_patternType (c : BitVec 4) : (s.raise c).patternType = s.patternType := rfl
@[simp] theorem State.raise_patternLength (c : BitVec 4) : (s.raise c).patternLength = s.patternLength := rfl
@[simp] theorem State.raise_patternReserved (c : BitVec 4) : (s.raise c).patternReserved = s.patternReserved := rfl
@[simp] theorem State.raise_unwritten (c : BitVec 4) : (s.raise c).unwritten = s.unwritten := rfl
@[simp] theorem State.raise_test (c : BitVec 4) : (s.raise c).test = s.test := rfl
@[simp] theorem State.raise_lanes (c : BitVec 4) : (s.raise c).lanes = s.lanes := rfl
@[simp] theorem State.raise_res (c : BitVec 4) : (s.raise c).res = s.res := rfl
@[simp] theorem State.raise_resAtStart (c : BitVec 4) : (s.raise c).resAtStart = s.resAtStart := rfl
@[simp] theorem State.raise_running (c : BitVec 4) : (s.raise c).running = s.running := rfl
@[simp] theorem State.raise_inbox (c : BitVec 4) : (s.raise c).inbox = s.inbox := rfl
@[simp] theorem State.raise_replies (c : BitVec 4) : (s.raise c).replies = s.replies := rfl
@[simp] theorem State.raise_tick (c : BitVec 4) : (s.raise c).tick = s.tick := rfl

/-! ### writeStatus -/

@[simp] theorem State.writeStatus_params (v : Word) : (s.writeStatus v).params = s.params := rfl
@[simp] theorem State.writeStatus_busy (v : Word) : (s.writeStatus v).busy = s.busy := rfl
@[simp] theorem State.writeStatus_done (v : Word) : (s.writeStatus v).done = (s.done && !v.getLsbD 1) := rfl
@[simp] theorem State.writeStatus_err (v : Word) : (s.writeStatus v).err = (s.err && !v.getLsbD 2) := rfl
@[simp] theorem State.writeStatus_errCode (v : Word) : (s.writeStatus v).errCode = if v.getLsbD 2 then 0 else s.errCode := rfl
@[simp] theorem State.writeStatus_launchWidth (v : Word) : (s.writeStatus v).launchWidth = s.launchWidth := rfl
@[simp] theorem State.writeStatus_baseNonceLo (v : Word) : (s.writeStatus v).baseNonceLo = s.baseNonceLo := rfl
@[simp] theorem State.writeStatus_baseNonceHi (v : Word) : (s.writeStatus v).baseNonceHi = s.baseNonceHi := rfl
@[simp] theorem State.writeStatus_laneCount (v : Word) : (s.writeStatus v).laneCount = s.laneCount := rfl
@[simp] theorem State.writeStatus_patternValue (v : Word) : (s.writeStatus v).patternValue = s.patternValue := rfl
@[simp] theorem State.writeStatus_patternType (v : Word) : (s.writeStatus v).patternType = s.patternType := rfl
@[simp] theorem State.writeStatus_patternLength (v : Word) : (s.writeStatus v).patternLength = s.patternLength := rfl
@[simp] theorem State.writeStatus_patternReserved (v : Word) : (s.writeStatus v).patternReserved = s.patternReserved := rfl
@[simp] theorem State.writeStatus_unwritten (v : Word) : (s.writeStatus v).unwritten = s.unwritten := rfl
@[simp] theorem State.writeStatus_test (v : Word) : (s.writeStatus v).test = s.test := rfl
@[simp] theorem State.writeStatus_lanes (v : Word) : (s.writeStatus v).lanes = s.lanes := rfl
@[simp] theorem State.writeStatus_res (v : Word) : (s.writeStatus v).res = s.res := rfl
@[simp] theorem State.writeStatus_resAtStart (v : Word) : (s.writeStatus v).resAtStart = s.resAtStart := rfl
@[simp] theorem State.writeStatus_running (v : Word) : (s.writeStatus v).running = s.running := rfl
@[simp] theorem State.writeStatus_inbox (v : Word) : (s.writeStatus v).inbox = s.inbox := rfl
@[simp] theorem State.writeStatus_replies (v : Word) : (s.writeStatus v).replies = s.replies := rfl
@[simp] theorem State.writeStatus_tick (v : Word) : (s.writeStatus v).tick = s.tick := rfl

/-! ### modifyLane -/

@[simp] theorem State.modifyLane_params (i : Word) (f : LaneExec → LaneExec) : (s.modifyLane i f).params = s.params := rfl
@[simp] theorem State.modifyLane_busy (i : Word) (f : LaneExec → LaneExec) : (s.modifyLane i f).busy = s.busy := rfl
@[simp] theorem State.modifyLane_done (i : Word) (f : LaneExec → LaneExec) : (s.modifyLane i f).done = s.done := rfl
@[simp] theorem State.modifyLane_err (i : Word) (f : LaneExec → LaneExec) : (s.modifyLane i f).err = s.err := rfl
@[simp] theorem State.modifyLane_errCode (i : Word) (f : LaneExec → LaneExec) : (s.modifyLane i f).errCode = s.errCode := rfl
@[simp] theorem State.modifyLane_launchWidth (i : Word) (f : LaneExec → LaneExec) : (s.modifyLane i f).launchWidth = s.launchWidth := rfl
@[simp] theorem State.modifyLane_baseNonceLo (i : Word) (f : LaneExec → LaneExec) : (s.modifyLane i f).baseNonceLo = s.baseNonceLo := rfl
@[simp] theorem State.modifyLane_baseNonceHi (i : Word) (f : LaneExec → LaneExec) : (s.modifyLane i f).baseNonceHi = s.baseNonceHi := rfl
@[simp] theorem State.modifyLane_laneCount (i : Word) (f : LaneExec → LaneExec) : (s.modifyLane i f).laneCount = s.laneCount := rfl
@[simp] theorem State.modifyLane_patternValue (i : Word) (f : LaneExec → LaneExec) : (s.modifyLane i f).patternValue = s.patternValue := rfl
@[simp] theorem State.modifyLane_patternType (i : Word) (f : LaneExec → LaneExec) : (s.modifyLane i f).patternType = s.patternType := rfl
@[simp] theorem State.modifyLane_patternLength (i : Word) (f : LaneExec → LaneExec) : (s.modifyLane i f).patternLength = s.patternLength := rfl
@[simp] theorem State.modifyLane_patternReserved (i : Word) (f : LaneExec → LaneExec) : (s.modifyLane i f).patternReserved = s.patternReserved := rfl
@[simp] theorem State.modifyLane_unwritten (i : Word) (f : LaneExec → LaneExec) : (s.modifyLane i f).unwritten = s.unwritten := rfl
@[simp] theorem State.modifyLane_test (i : Word) (f : LaneExec → LaneExec) : (s.modifyLane i f).test = s.test := rfl
@[simp] theorem State.modifyLane_lanes (i : Word) (f : LaneExec → LaneExec) : (s.modifyLane i f).lanes = s.lanes.map fun l => if l.unit.laneIndex = i then f l else l := rfl
@[simp] theorem State.modifyLane_res (i : Word) (f : LaneExec → LaneExec) : (s.modifyLane i f).res = s.res := rfl
@[simp] theorem State.modifyLane_resAtStart (i : Word) (f : LaneExec → LaneExec) : (s.modifyLane i f).resAtStart = s.resAtStart := rfl
@[simp] theorem State.modifyLane_running (i : Word) (f : LaneExec → LaneExec) : (s.modifyLane i f).running = s.running := rfl
@[simp] theorem State.modifyLane_inbox (i : Word) (f : LaneExec → LaneExec) : (s.modifyLane i f).inbox = s.inbox := rfl
@[simp] theorem State.modifyLane_replies (i : Word) (f : LaneExec → LaneExec) : (s.modifyLane i f).replies = s.replies := rfl
@[simp] theorem State.modifyLane_tick (i : Word) (f : LaneExec → LaneExec) : (s.modifyLane i f).tick = s.tick := rfl

/-! ### setUnit -/

@[simp] theorem State.setUnit_params (u : LaneUnit) : (s.setUnit u).params = s.params := by
  unfold State.setUnit; split <;> rfl
@[simp] theorem State.setUnit_busy (u : LaneUnit) : (s.setUnit u).busy = s.busy := by
  unfold State.setUnit; split <;> rfl
@[simp] theorem State.setUnit_done (u : LaneUnit) : (s.setUnit u).done = s.done := by
  unfold State.setUnit; split <;> rfl
@[simp] theorem State.setUnit_err (u : LaneUnit) : (s.setUnit u).err = s.err := by
  unfold State.setUnit; split <;> rfl
@[simp] theorem State.setUnit_errCode (u : LaneUnit) : (s.setUnit u).errCode = s.errCode := by
  unfold State.setUnit; split <;> rfl
@[simp] theorem State.setUnit_launchWidth (u : LaneUnit) : (s.setUnit u).launchWidth = s.launchWidth := by
  unfold State.setUnit; split <;> rfl
@[simp] theorem State.setUnit_baseNonceLo (u : LaneUnit) : (s.setUnit u).baseNonceLo = s.baseNonceLo := by
  unfold State.setUnit; split <;> rfl
@[simp] theorem State.setUnit_baseNonceHi (u : LaneUnit) : (s.setUnit u).baseNonceHi = s.baseNonceHi := by
  unfold State.setUnit; split <;> rfl
@[simp] theorem State.setUnit_laneCount (u : LaneUnit) : (s.setUnit u).laneCount = s.laneCount := by
  unfold State.setUnit; split <;> rfl
@[simp] theorem State.setUnit_patternValue (u : LaneUnit) : (s.setUnit u).patternValue = s.patternValue := by
  unfold State.setUnit; split <;> rfl
@[simp] theorem State.setUnit_patternType (u : LaneUnit) : (s.setUnit u).patternType = s.patternType := by
  unfold State.setUnit; split <;> rfl
@[simp] theorem State.setUnit_patternLength (u : LaneUnit) : (s.setUnit u).patternLength = s.patternLength := by
  unfold State.setUnit; split <;> rfl
@[simp] theorem State.setUnit_patternReserved (u : LaneUnit) : (s.setUnit u).patternReserved = s.patternReserved := by
  unfold State.setUnit; split <;> rfl
@[simp] theorem State.setUnit_unwritten (u : LaneUnit) : (s.setUnit u).unwritten = s.unwritten := by
  unfold State.setUnit; split <;> rfl
@[simp] theorem State.setUnit_res (u : LaneUnit) : (s.setUnit u).res = s.res := by
  unfold State.setUnit; split <;> rfl
@[simp] theorem State.setUnit_resAtStart (u : LaneUnit) : (s.setUnit u).resAtStart = s.resAtStart := by
  unfold State.setUnit; split <;> rfl
@[simp] theorem State.setUnit_running (u : LaneUnit) : (s.setUnit u).running = s.running := by
  unfold State.setUnit; split <;> rfl
@[simp] theorem State.setUnit_inbox (u : LaneUnit) : (s.setUnit u).inbox = s.inbox := by
  unfold State.setUnit; split <;> rfl
@[simp] theorem State.setUnit_replies (u : LaneUnit) : (s.setUnit u).replies = s.replies := by
  unfold State.setUnit; split <;> rfl
@[simp] theorem State.setUnit_tick (u : LaneUnit) : (s.setUnit u).tick = s.tick := by
  unfold State.setUnit; split <;> rfl

/-! ### setUpc -/

@[simp] theorem State.setUpc_params (n : BitVec 4) : (s.setUpc n).params = s.params := by
  unfold State.setUpc; split <;> rfl
@[simp] theorem State.setUpc_busy (n : BitVec 4) : (s.setUpc n).busy = s.busy := by
  unfold State.setUpc; split <;> rfl
@[simp] theorem State.setUpc_done (n : BitVec 4) : (s.setUpc n).done = s.done := by
  unfold State.setUpc; split <;> rfl
@[simp] theorem State.setUpc_err (n : BitVec 4) : (s.setUpc n).err = s.err := by
  unfold State.setUpc; split <;> rfl
@[simp] theorem State.setUpc_errCode (n : BitVec 4) : (s.setUpc n).errCode = s.errCode := by
  unfold State.setUpc; split <;> rfl
@[simp] theorem State.setUpc_launchWidth (n : BitVec 4) : (s.setUpc n).launchWidth = s.launchWidth := by
  unfold State.setUpc; split <;> rfl
@[simp] theorem State.setUpc_baseNonceLo (n : BitVec 4) : (s.setUpc n).baseNonceLo = s.baseNonceLo := by
  unfold State.setUpc; split <;> rfl
@[simp] theorem State.setUpc_baseNonceHi (n : BitVec 4) : (s.setUpc n).baseNonceHi = s.baseNonceHi := by
  unfold State.setUpc; split <;> rfl
@[simp] theorem State.setUpc_laneCount (n : BitVec 4) : (s.setUpc n).laneCount = s.laneCount := by
  unfold State.setUpc; split <;> rfl
@[simp] theorem State.setUpc_patternValue (n : BitVec 4) : (s.setUpc n).patternValue = s.patternValue := by
  unfold State.setUpc; split <;> rfl
@[simp] theorem State.setUpc_patternType (n : BitVec 4) : (s.setUpc n).patternType = s.patternType := by
  unfold State.setUpc; split <;> rfl
@[simp] theorem State.setUpc_patternLength (n : BitVec 4) : (s.setUpc n).patternLength = s.patternLength := by
  unfold State.setUpc; split <;> rfl
@[simp] theorem State.setUpc_patternReserved (n : BitVec 4) : (s.setUpc n).patternReserved = s.patternReserved := by
  unfold State.setUpc; split <;> rfl
@[simp] theorem State.setUpc_unwritten (n : BitVec 4) : (s.setUpc n).unwritten = s.unwritten := by
  unfold State.setUpc; split <;> rfl
@[simp] theorem State.setUpc_test (n : BitVec 4) : (s.setUpc n).test = s.test := by
  unfold State.setUpc; split <;> rfl
@[simp] theorem State.setUpc_res (n : BitVec 4) : (s.setUpc n).res = s.res := by
  unfold State.setUpc; split <;> rfl
@[simp] theorem State.setUpc_resAtStart (n : BitVec 4) : (s.setUpc n).resAtStart = s.resAtStart := by
  unfold State.setUpc; split <;> rfl
@[simp] theorem State.setUpc_running (n : BitVec 4) : (s.setUpc n).running = s.running := by
  unfold State.setUpc; split <;> rfl
@[simp] theorem State.setUpc_inbox (n : BitVec 4) : (s.setUpc n).inbox = s.inbox := by
  unfold State.setUpc; split <;> rfl
@[simp] theorem State.setUpc_replies (n : BitVec 4) : (s.setUpc n).replies = s.replies := by
  unfold State.setUpc; split <;> rfl
@[simp] theorem State.setUpc_tick (n : BitVec 4) : (s.setUpc n).tick = s.tick := by
  unfold State.setUpc; split <;> rfl

/-! ### advance -/

@[simp] theorem State.advance_params : (s.advance).params = s.params := by
  unfold State.advance; split <;> rfl
@[simp] theorem State.advance_busy : (s.advance).busy = s.busy := by
  unfold State.advance; split <;> rfl
@[simp] theorem State.advance_done : (s.advance).done = s.done := by
  unfold State.advance; split <;> rfl
@[simp] theorem State.advance_err : (s.advance).err = s.err := by
  unfold State.advance; split <;> rfl
@[simp] theorem State.advance_errCode : (s.advance).errCode = s.errCode := by
  unfold State.advance; split <;> rfl
@[simp] theorem State.advance_launchWidth : (s.advance).launchWidth = s.launchWidth := by
  unfold State.advance; split <;> rfl
@[simp] theorem State.advance_baseNonceLo : (s.advance).baseNonceLo = s.baseNonceLo := by
  unfold State.advance; split <;> rfl
@[simp] theorem State.advance_baseNonceHi : (s.advance).baseNonceHi = s.baseNonceHi := by
  unfold State.advance; split <;> rfl
@[simp] theorem State.advance_laneCount : (s.advance).laneCount = s.laneCount := by
  unfold State.advance; split <;> rfl
@[simp] theorem State.advance_patternValue : (s.advance).patternValue = s.patternValue := by
  unfold State.advance; split <;> rfl
@[simp] theorem State.advance_patternType : (s.advance).patternType = s.patternType := by
  unfold State.advance; split <;> rfl
@[simp] theorem State.advance_patternLength : (s.advance).patternLength = s.patternLength := by
  unfold State.advance; split <;> rfl
@[simp] theorem State.advance_patternReserved : (s.advance).patternReserved = s.patternReserved := by
  unfold State.advance; split <;> rfl
@[simp] theorem State.advance_unwritten : (s.advance).unwritten = s.unwritten := by
  unfold State.advance; split <;> rfl
@[simp] theorem State.advance_test : (s.advance).test = s.test := by
  unfold State.advance; split <;> rfl
@[simp] theorem State.advance_res : (s.advance).res = s.res := by
  unfold State.advance; split <;> rfl
@[simp] theorem State.advance_resAtStart : (s.advance).resAtStart = s.resAtStart := by
  unfold State.advance; split <;> rfl
@[simp] theorem State.advance_running : (s.advance).running = s.running := by
  unfold State.advance; split <;> rfl
@[simp] theorem State.advance_inbox : (s.advance).inbox = s.inbox := by
  unfold State.advance; split <;> rfl
@[simp] theorem State.advance_replies : (s.advance).replies = s.replies := by
  unfold State.advance; split <;> rfl
@[simp] theorem State.advance_tick : (s.advance).tick = s.tick := by
  unfold State.advance; split <;> rfl

/-! ### endLane -/

@[simp] theorem State.endLane_params : (s.endLane).params = s.params := by
  unfold State.endLane; split <;> rfl
@[simp] theorem State.endLane_busy : (s.endLane).busy = s.busy := by
  unfold State.endLane; split <;> rfl
@[simp] theorem State.endLane_done : (s.endLane).done = s.done := by
  unfold State.endLane; split <;> rfl
@[simp] theorem State.endLane_err : (s.endLane).err = s.err := by
  unfold State.endLane; split <;> rfl
@[simp] theorem State.endLane_errCode : (s.endLane).errCode = s.errCode := by
  unfold State.endLane; split <;> rfl
@[simp] theorem State.endLane_launchWidth : (s.endLane).launchWidth = s.launchWidth := by
  unfold State.endLane; split <;> rfl
@[simp] theorem State.endLane_baseNonceLo : (s.endLane).baseNonceLo = s.baseNonceLo := by
  unfold State.endLane; split <;> rfl
@[simp] theorem State.endLane_baseNonceHi : (s.endLane).baseNonceHi = s.baseNonceHi := by
  unfold State.endLane; split <;> rfl
@[simp] theorem State.endLane_laneCount : (s.endLane).laneCount = s.laneCount := by
  unfold State.endLane; split <;> rfl
@[simp] theorem State.endLane_patternValue : (s.endLane).patternValue = s.patternValue := by
  unfold State.endLane; split <;> rfl
@[simp] theorem State.endLane_patternType : (s.endLane).patternType = s.patternType := by
  unfold State.endLane; split <;> rfl
@[simp] theorem State.endLane_patternLength : (s.endLane).patternLength = s.patternLength := by
  unfold State.endLane; split <;> rfl
@[simp] theorem State.endLane_patternReserved : (s.endLane).patternReserved = s.patternReserved := by
  unfold State.endLane; split <;> rfl
@[simp] theorem State.endLane_unwritten : (s.endLane).unwritten = s.unwritten := by
  unfold State.endLane; split <;> rfl
@[simp] theorem State.endLane_test : (s.endLane).test = s.test := by
  unfold State.endLane; split <;> rfl
@[simp] theorem State.endLane_res : (s.endLane).res = s.res := by
  unfold State.endLane; split <;> rfl
@[simp] theorem State.endLane_resAtStart : (s.endLane).resAtStart = s.resAtStart := by
  unfold State.endLane; split <;> rfl
@[simp] theorem State.endLane_running : (s.endLane).running = s.running := by
  unfold State.endLane; split <;> rfl
@[simp] theorem State.endLane_inbox : (s.endLane).inbox = s.inbox := by
  unfold State.endLane; split <;> rfl
@[simp] theorem State.endLane_replies : (s.endLane).replies = s.replies := by
  unfold State.endLane; split <;> rfl
@[simp] theorem State.endLane_tick : (s.endLane).tick = s.tick := by
  unfold State.endLane; split <;> rfl

/-! ### markWritten -/

@[simp] theorem State.markWritten_params (p : Reg → Bool) : (s.markWritten p).params = s.params := rfl
@[simp] theorem State.markWritten_busy (p : Reg → Bool) : (s.markWritten p).busy = s.busy := rfl
@[simp] theorem State.markWritten_done (p : Reg → Bool) : (s.markWritten p).done = s.done := rfl
@[simp] theorem State.markWritten_err (p : Reg → Bool) : (s.markWritten p).err = s.err := rfl
@[simp] theorem State.markWritten_errCode (p : Reg → Bool) : (s.markWritten p).errCode = s.errCode := rfl
@[simp] theorem State.markWritten_launchWidth (p : Reg → Bool) : (s.markWritten p).launchWidth = s.launchWidth := rfl
@[simp] theorem State.markWritten_baseNonceLo (p : Reg → Bool) : (s.markWritten p).baseNonceLo = s.baseNonceLo := rfl
@[simp] theorem State.markWritten_baseNonceHi (p : Reg → Bool) : (s.markWritten p).baseNonceHi = s.baseNonceHi := rfl
@[simp] theorem State.markWritten_laneCount (p : Reg → Bool) : (s.markWritten p).laneCount = s.laneCount := rfl
@[simp] theorem State.markWritten_patternValue (p : Reg → Bool) : (s.markWritten p).patternValue = s.patternValue := rfl
@[simp] theorem State.markWritten_patternType (p : Reg → Bool) : (s.markWritten p).patternType = s.patternType := rfl
@[simp] theorem State.markWritten_patternLength (p : Reg → Bool) : (s.markWritten p).patternLength = s.patternLength := rfl
@[simp] theorem State.markWritten_patternReserved (p : Reg → Bool) : (s.markWritten p).patternReserved = s.patternReserved := rfl
@[simp] theorem State.markWritten_unwritten (p : Reg → Bool) : (s.markWritten p).unwritten = s.unwritten.filter fun r => !p r := rfl
@[simp] theorem State.markWritten_test (p : Reg → Bool) : (s.markWritten p).test = s.test := rfl
@[simp] theorem State.markWritten_lanes (p : Reg → Bool) : (s.markWritten p).lanes = s.lanes := rfl
@[simp] theorem State.markWritten_res (p : Reg → Bool) : (s.markWritten p).res = s.res := rfl
@[simp] theorem State.markWritten_resAtStart (p : Reg → Bool) : (s.markWritten p).resAtStart = s.resAtStart := rfl
@[simp] theorem State.markWritten_running (p : Reg → Bool) : (s.markWritten p).running = s.running := rfl
@[simp] theorem State.markWritten_inbox (p : Reg → Bool) : (s.markWritten p).inbox = s.inbox := rfl
@[simp] theorem State.markWritten_replies (p : Reg → Bool) : (s.markWritten p).replies = s.replies := rfl
@[simp] theorem State.markWritten_tick (p : Reg → Bool) : (s.markWritten p).tick = s.tick := rfl

/-! ### markUnit -/

@[simp] theorem State.markUnit_params (p : Reg → Bool) : (s.markUnit p).params = s.params := by
  unfold State.markUnit; split <;> rfl
@[simp] theorem State.markUnit_busy (p : Reg → Bool) : (s.markUnit p).busy = s.busy := by
  unfold State.markUnit; split <;> rfl
@[simp] theorem State.markUnit_done (p : Reg → Bool) : (s.markUnit p).done = s.done := by
  unfold State.markUnit; split <;> rfl
@[simp] theorem State.markUnit_err (p : Reg → Bool) : (s.markUnit p).err = s.err := by
  unfold State.markUnit; split <;> rfl
@[simp] theorem State.markUnit_errCode (p : Reg → Bool) : (s.markUnit p).errCode = s.errCode := by
  unfold State.markUnit; split <;> rfl
@[simp] theorem State.markUnit_launchWidth (p : Reg → Bool) : (s.markUnit p).launchWidth = s.launchWidth := by
  unfold State.markUnit; split <;> rfl
@[simp] theorem State.markUnit_baseNonceLo (p : Reg → Bool) : (s.markUnit p).baseNonceLo = s.baseNonceLo := by
  unfold State.markUnit; split <;> rfl
@[simp] theorem State.markUnit_baseNonceHi (p : Reg → Bool) : (s.markUnit p).baseNonceHi = s.baseNonceHi := by
  unfold State.markUnit; split <;> rfl
@[simp] theorem State.markUnit_laneCount (p : Reg → Bool) : (s.markUnit p).laneCount = s.laneCount := by
  unfold State.markUnit; split <;> rfl
@[simp] theorem State.markUnit_patternValue (p : Reg → Bool) : (s.markUnit p).patternValue = s.patternValue := by
  unfold State.markUnit; split <;> rfl
@[simp] theorem State.markUnit_patternType (p : Reg → Bool) : (s.markUnit p).patternType = s.patternType := by
  unfold State.markUnit; split <;> rfl
@[simp] theorem State.markUnit_patternLength (p : Reg → Bool) : (s.markUnit p).patternLength = s.patternLength := by
  unfold State.markUnit; split <;> rfl
@[simp] theorem State.markUnit_patternReserved (p : Reg → Bool) : (s.markUnit p).patternReserved = s.patternReserved := by
  unfold State.markUnit; split <;> rfl
@[simp] theorem State.markUnit_test (p : Reg → Bool) : (s.markUnit p).test = s.test := by
  unfold State.markUnit; split <;> rfl
@[simp] theorem State.markUnit_lanes (p : Reg → Bool) : (s.markUnit p).lanes = s.lanes := by
  unfold State.markUnit; split <;> rfl
@[simp] theorem State.markUnit_res (p : Reg → Bool) : (s.markUnit p).res = s.res := by
  unfold State.markUnit; split <;> rfl
@[simp] theorem State.markUnit_resAtStart (p : Reg → Bool) : (s.markUnit p).resAtStart = s.resAtStart := by
  unfold State.markUnit; split <;> rfl
@[simp] theorem State.markUnit_running (p : Reg → Bool) : (s.markUnit p).running = s.running := by
  unfold State.markUnit; split <;> rfl
@[simp] theorem State.markUnit_inbox (p : Reg → Bool) : (s.markUnit p).inbox = s.inbox := by
  unfold State.markUnit; split <;> rfl
@[simp] theorem State.markUnit_replies (p : Reg → Bool) : (s.markUnit p).replies = s.replies := by
  unfold State.markUnit; split <;> rfl
@[simp] theorem State.markUnit_tick (p : Reg → Bool) : (s.markUnit p).tick = s.tick := by
  unfold State.markUnit; split <;> rfl

/-! ### reply -/

@[simp] theorem State.reply_params (v : Word) : (s.reply v).params = s.params := rfl
@[simp] theorem State.reply_busy (v : Word) : (s.reply v).busy = s.busy := rfl
@[simp] theorem State.reply_done (v : Word) : (s.reply v).done = s.done := rfl
@[simp] theorem State.reply_err (v : Word) : (s.reply v).err = s.err := rfl
@[simp] theorem State.reply_errCode (v : Word) : (s.reply v).errCode = s.errCode := rfl
@[simp] theorem State.reply_launchWidth (v : Word) : (s.reply v).launchWidth = s.launchWidth := rfl
@[simp] theorem State.reply_baseNonceLo (v : Word) : (s.reply v).baseNonceLo = s.baseNonceLo := rfl
@[simp] theorem State.reply_baseNonceHi (v : Word) : (s.reply v).baseNonceHi = s.baseNonceHi := rfl
@[simp] theorem State.reply_laneCount (v : Word) : (s.reply v).laneCount = s.laneCount := rfl
@[simp] theorem State.reply_patternValue (v : Word) : (s.reply v).patternValue = s.patternValue := rfl
@[simp] theorem State.reply_patternType (v : Word) : (s.reply v).patternType = s.patternType := rfl
@[simp] theorem State.reply_patternLength (v : Word) : (s.reply v).patternLength = s.patternLength := rfl
@[simp] theorem State.reply_patternReserved (v : Word) : (s.reply v).patternReserved = s.patternReserved := rfl
@[simp] theorem State.reply_unwritten (v : Word) : (s.reply v).unwritten = s.unwritten := rfl
@[simp] theorem State.reply_test (v : Word) : (s.reply v).test = s.test := rfl
@[simp] theorem State.reply_lanes (v : Word) : (s.reply v).lanes = s.lanes := rfl
@[simp] theorem State.reply_res (v : Word) : (s.reply v).res = s.res := rfl
@[simp] theorem State.reply_resAtStart (v : Word) : (s.reply v).resAtStart = s.resAtStart := rfl
@[simp] theorem State.reply_running (v : Word) : (s.reply v).running = s.running := rfl
@[simp] theorem State.reply_inbox (v : Word) : (s.reply v).inbox = s.inbox := rfl
@[simp] theorem State.reply_replies (v : Word) : (s.reply v).replies = s.replies ++ [v] := rfl
@[simp] theorem State.reply_tick (v : Word) : (s.reply v).tick = s.tick := rfl

/-! ### complete -/

@[simp] theorem State.complete_params : (s.complete).params = s.params := rfl
@[simp] theorem State.complete_busy : (s.complete).busy = false := rfl
@[simp] theorem State.complete_done : (s.complete).done = true := rfl
@[simp] theorem State.complete_err : (s.complete).err = s.err := rfl
@[simp] theorem State.complete_errCode : (s.complete).errCode = s.errCode := rfl
@[simp] theorem State.complete_launchWidth : (s.complete).launchWidth = s.launchWidth := rfl
@[simp] theorem State.complete_baseNonceLo : (s.complete).baseNonceLo = s.baseNonceLo := rfl
@[simp] theorem State.complete_baseNonceHi : (s.complete).baseNonceHi = s.baseNonceHi := rfl
@[simp] theorem State.complete_laneCount : (s.complete).laneCount = s.laneCount := rfl
@[simp] theorem State.complete_patternValue : (s.complete).patternValue = s.patternValue := rfl
@[simp] theorem State.complete_patternType : (s.complete).patternType = s.patternType := rfl
@[simp] theorem State.complete_patternLength : (s.complete).patternLength = s.patternLength := rfl
@[simp] theorem State.complete_patternReserved : (s.complete).patternReserved = s.patternReserved := rfl
@[simp] theorem State.complete_unwritten : (s.complete).unwritten = s.unwritten := rfl
@[simp] theorem State.complete_test : (s.complete).test = s.test := rfl
@[simp] theorem State.complete_lanes : (s.complete).lanes = s.lanes := rfl
@[simp] theorem State.complete_res : (s.complete).res = s.res := rfl
@[simp] theorem State.complete_resAtStart : (s.complete).resAtStart = s.resAtStart := rfl
@[simp] theorem State.complete_running : (s.complete).running = s.running := rfl
@[simp] theorem State.complete_inbox : (s.complete).inbox = s.inbox := rfl
@[simp] theorem State.complete_replies : (s.complete).replies = s.replies := rfl
@[simp] theorem State.complete_tick : (s.complete).tick = s.tick := rfl

/-! ### nextTick -/

@[simp] theorem State.nextTick_params : (s.nextTick).params = s.params := rfl
@[simp] theorem State.nextTick_busy : (s.nextTick).busy = s.busy := rfl
@[simp] theorem State.nextTick_done : (s.nextTick).done = s.done := rfl
@[simp] theorem State.nextTick_err : (s.nextTick).err = s.err := rfl
@[simp] theorem State.nextTick_errCode : (s.nextTick).errCode = s.errCode := rfl
@[simp] theorem State.nextTick_launchWidth : (s.nextTick).launchWidth = s.launchWidth := rfl
@[simp] theorem State.nextTick_baseNonceLo : (s.nextTick).baseNonceLo = s.baseNonceLo := rfl
@[simp] theorem State.nextTick_baseNonceHi : (s.nextTick).baseNonceHi = s.baseNonceHi := rfl
@[simp] theorem State.nextTick_laneCount : (s.nextTick).laneCount = s.laneCount := rfl
@[simp] theorem State.nextTick_patternValue : (s.nextTick).patternValue = s.patternValue := rfl
@[simp] theorem State.nextTick_patternType : (s.nextTick).patternType = s.patternType := rfl
@[simp] theorem State.nextTick_patternLength : (s.nextTick).patternLength = s.patternLength := rfl
@[simp] theorem State.nextTick_patternReserved : (s.nextTick).patternReserved = s.patternReserved := rfl
@[simp] theorem State.nextTick_unwritten : (s.nextTick).unwritten = s.unwritten := rfl
@[simp] theorem State.nextTick_test : (s.nextTick).test = s.test := rfl
@[simp] theorem State.nextTick_lanes : (s.nextTick).lanes = s.lanes := rfl
@[simp] theorem State.nextTick_res : (s.nextTick).res = s.res := rfl
@[simp] theorem State.nextTick_resAtStart : (s.nextTick).resAtStart = s.resAtStart := rfl
@[simp] theorem State.nextTick_running : (s.nextTick).running = s.running := rfl
@[simp] theorem State.nextTick_inbox : (s.nextTick).inbox = s.inbox := rfl
@[simp] theorem State.nextTick_replies : (s.nextTick).replies = s.replies := rfl
@[simp] theorem State.nextTick_tick : (s.nextTick).tick = s.tick + 1 := rfl

end Sys2Proof.Machine
end

