-- ==== Sys2Proof/Laws/Units.lean ====
section
/-! SUPPORT. What the operations on the executing lane unit can do, said once: every meaning but GUARD's,
PACK's and HALT's is a `updateUnit`, and `updateUnit_unitStep` is its whole effect. -/
namespace Sys2Proof.Machine

/-- A change of a lane execution that keeps the LANE_INDEX `i`. -/
def KeepsIndex (i : Word) (f : LaneExec → LaneExec) : Prop :=
  ∀ l, l.unit.laneIndex = i → (f l).unit.laneIndex = i

theorem State.lane?_laneIndex {s : State} {i : Word} {l : LaneExec} (h : s.lane? i = some l) :
    l.unit.laneIndex = i := by
  have := List.find?_some h
  simpa using this

theorem State.lane?_mem {s : State} {i : Word} {l : LaneExec} (h : s.lane? i = some l) : l ∈ s.lanes :=
  List.mem_of_find?_eq_some h

/-- Changing lane execution `i` changes that one, and no other. -/
theorem State.lane?_modifyLane (s : State) {i : Word} {f : LaneExec → LaneExec} (hf : KeepsIndex i f)
    (j : Word) : (s.modifyLane i f).lane? j = if j = i then (s.lane? i).map f else s.lane? j := by
  unfold State.lane?
  rw [State.modifyLane_lanes]
  induction s.lanes with
  | nil => simp
  | cons l ls ih =>
    rw [List.map_cons, List.find?_cons, List.find?_cons, List.find?_cons]
    by_cases hl : l.unit.laneIndex = i
    · have hk := hf l hl
      by_cases hj : j = i
      · subst hj
        simp [hl, hk]
      · have hne : (i == j) = false := beq_false_of_ne fun h => hj h.symm
        simpa [hl, hk, hj, hne] using ih
    · by_cases hj : j = i
      · subst hj
        have hne : (l.unit.laneIndex == j) = false := beq_false_of_ne hl
        simpa [hl, hne] using ih
      · simp only [hl, if_false, hj]
        rw [ih, if_neg hj]

/-- Changing lane execution `i` changes no LANE_INDEX. -/
theorem State.laneIndices_modifyLane (s : State) {i : Word} {f : LaneExec → LaneExec} (hf : KeepsIndex i f) :
    (s.modifyLane i f).lanes.map (·.unit.laneIndex) = s.lanes.map (·.unit.laneIndex) := by
  rw [State.modifyLane_lanes, List.map_map]
  refine List.map_congr_left fun l _ => ?_
  simp only [Function.comp_apply]
  split
  · rename_i h; rw [hf l h, h]
  · rfl

theorem State.modifyLane_modifyLane (s : State) {i : Word} {f g : LaneExec → LaneExec} (hf : KeepsIndex i f) :
    (s.modifyLane i f).modifyLane i g = s.modifyLane i fun l => g (f l) := by
  unfold State.modifyLane
  simp only [List.map_map, State.mk.injEq, true_and, and_true]
  refine List.map_congr_left fun l _ => ?_
  simp only [Function.comp_apply]
  split
  · rename_i h; rw [if_pos (hf l h)]
  · rfl

/-- The executing unit exists on the test unit always. -/
theorem State.unit?_test {s : State} (h : s.running = .test) : s.unit? = some s.test := by
  simp [State.unit?, h]

theorem State.unit?_lane {s : State} {i : Word} (h : s.running = .lane i) :
    s.unit? = (s.lane? i).map (·.unit) := by
  simp [State.unit?, h]

/-- `onUnit` answers a next state exactly when there is an executing unit. -/
theorem State.onUnit_of_unit {s : State} {u : LaneUnit} (h : s.unit? = some u) (k : LaneUnit → State) :
    s.onUnit k = .next (k u) := by
  simp [State.onUnit, h]

theorem State.onUnit_next {s t : State} {k : LaneUnit → State} (h : s.onUnit k = .next t) :
    ∃ u, s.unit? = some u ∧ t = k u := by
  unfold State.onUnit at h
  split at h
  · rename_i u hu
    injection h with h
    exact ⟨u, hu, h.symm⟩
  · cases h

/-- The executing unit takes new registers and its upc goes through `g`: the whole effect, on either kind of
unit. -/
theorem State.unitStep_setUnit_upc {s : State} {u u' : LaneUnit} (p : Reg → Bool) (g : BitVec 4 → BitVec 4)
    (hu : s.unit? = some u) (hi : u'.laneIndex = u.laneIndex) {t : State}
    (ht : s.running = .test → t = (s.setUnit u').markUnit p)
    (hl : ∀ i, s.running = .lane i → t = s.modifyLane i fun l => { unit := u', upc := g l.upc }) :
    UnitStep s t u' p g := by
  cases hr : s.running with
  | test =>
    obtain rfl := ht hr
    constructor
    all_goals simp [State.unit?, State.setUnit, State.markUnit, State.markWritten, State.lane?, hr]
  | lane i =>
    obtain rfl := hl i hr
    rw [State.unit?_lane hr, Option.map_eq_some_iff] at hu
    obtain ⟨l₀, hl₀, rfl⟩ := hu
    have hidx := State.lane?_laneIndex hl₀
    have hk : KeepsIndex i fun l => { unit := u', upc := g l.upc } := fun l _ => by simp [hi, hidx]
    constructor
    · simp [State.unit?, hr, State.lane?_modifyLane s hk, hl₀]
    · intro j l hj hlj
      rw [hr] at hj
      obtain rfl : i = j := by simpa using hj
      simp [State.lane?_modifyLane s hk, hlj]
    · intro j hj
      rw [State.lane?_modifyLane s hk, if_neg]
      rintro rfl
      exact hj hr
    · exact State.laneIndices_modifyLane s hk
    · intro _; rfl
    · simp [hr]
    · intro a; rfl
    · rfl

/-- The whole effect of `updateUnit`. -/
theorem State.updateUnit_unitStep {s : State} {u : LaneUnit} {f : LaneUnit → LaneUnit} {p : Reg → Bool}
    (hu : s.unit? = some u) (hi : (f u).laneIndex = u.laneIndex) :
    ∃ t, s.updateUnit f p = .next t ∧ UnitStep s t (f u) p nextUpc := by
  refine ⟨_, State.onUnit_of_unit hu _, State.unitStep_setUnit_upc p nextUpc hu hi ?_ ?_⟩
  · intro hr
    simp [State.advance, hr]
  · intro i hr
    have hidx : u.laneIndex = i := by
      rw [State.unit?_lane hr, Option.map_eq_some_iff] at hu
      obtain ⟨l₀, hl₀, rfl⟩ := hu
      exact State.lane?_laneIndex hl₀
    have hk : KeepsIndex i fun l : LaneExec => { l with unit := f u } := fun l _ => by simp [hi, hidx]
    simp only [State.advance, State.markUnit_running, State.setUnit_running, hr]
    simp only [State.setUnit, State.markUnit, hr, State.modifyLane_running,
      State.modifyLane_modifyLane s hk]
    rfl

/-- Conversely: if `updateUnit` answers, there is an executing unit and the answer is that step. -/
theorem State.updateUnit_next {s t : State} {f : LaneUnit → LaneUnit} {p : Reg → Bool}
    (h : s.updateUnit f p = .next t) (hi : ∀ u, (f u).laneIndex = u.laneIndex) :
    ∃ u, s.unit? = some u ∧ UnitStep s t (f u) p nextUpc := by
  obtain ⟨u, hu, -⟩ := State.onUnit_next h
  obtain ⟨t', ht', hs⟩ := State.updateUnit_unitStep (p := p) hu (hi u)
  rw [h] at ht'
  injection ht' with ht'
  subst ht'
  exact ⟨u, hu, hs⟩

/-- The whole effect of GUARD on its unit: new registers, and upc to 9 or on. -/
theorem State.guardBranch_unitStep {s : State} {u u' : LaneUnit} (hu : s.unit? = some u)
    (hi : u'.laneIndex = u.laneIndex) (b : Bool) :
    UnitStep s ((s.setUnit u').guardBranch b) u' (fun _ => false) (fun n => if b then 9 else n + 1) := by
  have hidx : ∀ i, s.running = .lane i → u.laneIndex = i := by
    intro i hr
    rw [State.unit?_lane hr, Option.map_eq_some_iff] at hu
    obtain ⟨l₀, hl₀, rfl⟩ := hu
    exact State.lane?_laneIndex hl₀
  refine State.unitStep_setUnit_upc _ _ hu hi ?_ ?_
  · intro hr
    cases b <;> simp [State.guardBranch, State.setUpc, State.advance, State.markUnit, State.setUnit, hr,
      State.markWritten]
  · intro i hr
    have hk : KeepsIndex i fun l : LaneExec => { l with unit := u' } := fun l _ => by simp [hi, hidx i hr]
    cases b <;> simp [State.guardBranch, State.setUpc, State.advance, State.setUnit, hr,
      State.modifyLane_modifyLane s hk]

/-- The whole effect of `advance`: no register changes, upc goes on. -/
theorem State.advance_unitStep {s : State} {u : LaneUnit} (hu : s.unit? = some u) :
    UnitStep s s.advance u (fun _ => false) nextUpc := by
  cases hr : s.running with
  | test =>
    have h : s.advance = s := by simp [State.advance, hr]
    rw [h]
    refine ⟨hu, fun i l hi => ?_, fun _ _ => rfl, rfl, fun _ => rfl, by simp, fun _ => rfl, rfl⟩
    rw [hr] at hi; cases hi
  | lane i =>
    have ha : s.advance = s.modifyLane i fun l => { l with upc := l.upc + 1 } := by simp [State.advance, hr]
    rw [State.unit?_lane hr, Option.map_eq_some_iff] at hu
    obtain ⟨l₀, hl₀, rfl⟩ := hu
    have hk : KeepsIndex i fun l : LaneExec => { l with upc := l.upc + 1 } := fun l h => h
    have hself := State.lane?_modifyLane s hk i
    rw [if_pos rfl, hl₀, Option.map_some] at hself
    rw [ha]
    refine ⟨?_, fun j l hj hlj => ?_, fun j hj => ?_, State.laneIndices_modifyLane s hk, fun _ => rfl, by simp [hr],
      fun _ => rfl, rfl⟩
    · rw [State.unit?_lane (i := i) (by rw [State.modifyLane_running, hr]), hself]
      rfl
    · obtain rfl : i = j := by simpa [hr] using hj
      obtain rfl : l₀ = l := by rw [hl₀] at hlj; simpa using hlj
      rw [hself]
      rfl
    · rw [State.lane?_modifyLane s hk, if_neg]
      rintro rfl
      exact hj hr

/-- The live lane executions after HALT's `end`: those with another LANE_INDEX. -/
theorem State.endLane_of_lane {s : State} {i : Word} (hr : s.running = .lane i) :
    s.endLane = { s with lanes := s.lanes.filter fun l => l.unit.laneIndex != i } := by
  simp [State.endLane, hr]

theorem State.endLane_of_test {s : State} (hr : s.running = .test) : s.endLane = s := by
  simp [State.endLane, hr]

/-- A lane execution other than `i` is found as before once `i` has ended, and `i` no more. -/
theorem State.lane?_endLane {s : State} {i : Word} (hr : s.running = .lane i) (j : Word) :
    s.endLane.lane? j = if j = i then none else s.lane? j := by
  rw [State.endLane_of_lane hr]
  simp only [State.lane?, List.find?_filter]
  split
  · subst_vars; simp
  · congr 1; funext l
    by_cases h : l.unit.laneIndex = j
    · simp [*]
    · simp [h]

end Sys2Proof.Machine
end

