-- ==== Sys2Proof/Laws/LaneUnit.lean ====
section
/-! SUPPORT. What each micro-op's effect on a lane unit does to each of its registers, one small lemma a
register, and the whole effect of the micro-ops that are a function of S. Unfold an effect before closing a
goal about it by rfl: a comparison of two values of S word by word is slow. -/
namespace Sys2Proof.Machine

variable (u : LaneUnit)

/-! ### mapLanes -/

@[simp] theorem LaneUnit.mapLanes_S (wo : WordOrder) (f : Lanes → Lanes) : (u.mapLanes wo f).S = ofLanes wo (f (toLanes wo u.S)) := by
  unfold LaneUnit.mapLanes; rfl
@[simp] theorem LaneUnit.mapLanes_IN (wo : WordOrder) (f : Lanes → Lanes) : (u.mapLanes wo f).IN = u.IN := by
  unfold LaneUnit.mapLanes; rfl
@[simp] theorem LaneUnit.mapLanes_DIG (wo : WordOrder) (f : Lanes → Lanes) : (u.mapLanes wo f).DIG = u.DIG := by
  unfold LaneUnit.mapLanes; rfl
@[simp] theorem LaneUnit.mapLanes_nonceLo (wo : WordOrder) (f : Lanes → Lanes) : (u.mapLanes wo f).nonceLo = u.nonceLo := by
  unfold LaneUnit.mapLanes; rfl
@[simp] theorem LaneUnit.mapLanes_nonceHi (wo : WordOrder) (f : Lanes → Lanes) : (u.mapLanes wo f).nonceHi = u.nonceHi := by
  unfold LaneUnit.mapLanes; rfl
@[simp] theorem LaneUnit.mapLanes_laneIndex (wo : WordOrder) (f : Lanes → Lanes) : (u.mapLanes wo f).laneIndex = u.laneIndex := by
  unfold LaneUnit.mapLanes; rfl
@[simp] theorem LaneUnit.mapLanes_inactive (wo : WordOrder) (f : Lanes → Lanes) : (u.mapLanes wo f).inactive = u.inactive := by
  unfold LaneUnit.mapLanes; rfl

/-! ### clear -/

@[simp] theorem LaneUnit.clear_S : (u.clear).S = Vector.replicate 50 0 := by
  unfold LaneUnit.clear; rfl
@[simp] theorem LaneUnit.clear_IN : (u.clear).IN = u.IN := by
  unfold LaneUnit.clear; rfl
@[simp] theorem LaneUnit.clear_DIG : (u.clear).DIG = u.DIG := by
  unfold LaneUnit.clear; rfl
@[simp] theorem LaneUnit.clear_nonceLo : (u.clear).nonceLo = u.nonceLo := by
  unfold LaneUnit.clear; rfl
@[simp] theorem LaneUnit.clear_nonceHi : (u.clear).nonceHi = u.nonceHi := by
  unfold LaneUnit.clear; rfl
@[simp] theorem LaneUnit.clear_laneIndex : (u.clear).laneIndex = u.laneIndex := by
  unfold LaneUnit.clear; rfl
@[simp] theorem LaneUnit.clear_inactive : (u.clear).inactive = u.inactive := by
  unfold LaneUnit.clear; rfl

/-! ### absorb -/

@[simp] theorem LaneUnit.absorb_S : (u.absorb).S = Vector.ofFn fun k => if h : k.val < 8 then u.IN.get ⟨k.val, h⟩ else u.S.get k := by
  unfold LaneUnit.absorb; rfl
@[simp] theorem LaneUnit.absorb_IN : (u.absorb).IN = u.IN := by
  unfold LaneUnit.absorb; rfl
@[simp] theorem LaneUnit.absorb_DIG : (u.absorb).DIG = u.DIG := by
  unfold LaneUnit.absorb; rfl
@[simp] theorem LaneUnit.absorb_nonceLo : (u.absorb).nonceLo = u.nonceLo := by
  unfold LaneUnit.absorb; rfl
@[simp] theorem LaneUnit.absorb_nonceHi : (u.absorb).nonceHi = u.nonceHi := by
  unfold LaneUnit.absorb; rfl
@[simp] theorem LaneUnit.absorb_laneIndex : (u.absorb).laneIndex = u.laneIndex := by
  unfold LaneUnit.absorb; rfl
@[simp] theorem LaneUnit.absorb_inactive : (u.absorb).inactive = u.inactive := by
  unfold LaneUnit.absorb; rfl

/-! ### pad -/

@[simp] theorem LaneUnit.pad_S : (u.pad).S = (u.S.set 8 (u.S.get 8 ^^^ 0x00000001)).set 33 (u.S.get 33 ^^^ 0x80000000) := by
  unfold LaneUnit.pad; rfl
@[simp] theorem LaneUnit.pad_IN : (u.pad).IN = u.IN := by
  unfold LaneUnit.pad; rfl
@[simp] theorem LaneUnit.pad_DIG : (u.pad).DIG = u.DIG := by
  unfold LaneUnit.pad; rfl
@[simp] theorem LaneUnit.pad_nonceLo : (u.pad).nonceLo = u.nonceLo := by
  unfold LaneUnit.pad; rfl
@[simp] theorem LaneUnit.pad_nonceHi : (u.pad).nonceHi = u.nonceHi := by
  unfold LaneUnit.pad; rfl
@[simp] theorem LaneUnit.pad_laneIndex : (u.pad).laneIndex = u.laneIndex := by
  unfold LaneUnit.pad; rfl
@[simp] theorem LaneUnit.pad_inactive : (u.pad).inactive = u.inactive := by
  unfold LaneUnit.pad; rfl

/-! ### permute -/

@[simp] theorem LaneUnit.permute_S (wo : WordOrder) : (u.permute wo).S = ofLanes wo (permuteLanes (toLanes wo u.S)) := by
  unfold LaneUnit.permute LaneUnit.mapLanes; rfl
@[simp] theorem LaneUnit.permute_IN (wo : WordOrder) : (u.permute wo).IN = u.IN := by
  unfold LaneUnit.permute LaneUnit.mapLanes; rfl
@[simp] theorem LaneUnit.permute_DIG (wo : WordOrder) : (u.permute wo).DIG = u.DIG := by
  unfold LaneUnit.permute LaneUnit.mapLanes; rfl
@[simp] theorem LaneUnit.permute_nonceLo (wo : WordOrder) : (u.permute wo).nonceLo = u.nonceLo := by
  unfold LaneUnit.permute LaneUnit.mapLanes; rfl
@[simp] theorem LaneUnit.permute_nonceHi (wo : WordOrder) : (u.permute wo).nonceHi = u.nonceHi := by
  unfold LaneUnit.permute LaneUnit.mapLanes; rfl
@[simp] theorem LaneUnit.permute_laneIndex (wo : WordOrder) : (u.permute wo).laneIndex = u.laneIndex := by
  unfold LaneUnit.permute LaneUnit.mapLanes; rfl
@[simp] theorem LaneUnit.permute_inactive (wo : WordOrder) : (u.permute wo).inactive = u.inactive := by
  unfold LaneUnit.permute LaneUnit.mapLanes; rfl

/-! ### extract -/

@[simp] theorem LaneUnit.extract_S : (u.extract).S = u.S := by
  unfold LaneUnit.extract; rfl
@[simp] theorem LaneUnit.extract_IN : (u.extract).IN = u.IN := by
  unfold LaneUnit.extract; rfl
@[simp] theorem LaneUnit.extract_DIG : (u.extract).DIG = Vector.ofFn fun k => u.S.get (leadingWord k) := by
  unfold LaneUnit.extract; rfl
@[simp] theorem LaneUnit.extract_nonceLo : (u.extract).nonceLo = u.nonceLo := by
  unfold LaneUnit.extract; rfl
@[simp] theorem LaneUnit.extract_nonceHi : (u.extract).nonceHi = u.nonceHi := by
  unfold LaneUnit.extract; rfl
@[simp] theorem LaneUnit.extract_laneIndex : (u.extract).laneIndex = u.laneIndex := by
  unfold LaneUnit.extract; rfl
@[simp] theorem LaneUnit.extract_inactive : (u.extract).inactive = u.inactive := by
  unfold LaneUnit.extract; rfl

/-! ### deriveNonce -/

@[simp] theorem LaneUnit.deriveNonce_S (bl bh : Word) : (u.deriveNonce bl bh).S = u.S := by
  unfold LaneUnit.deriveNonce; rfl
@[simp] theorem LaneUnit.deriveNonce_IN (bl bh : Word) : (u.deriveNonce bl bh).IN = u.IN := by
  unfold LaneUnit.deriveNonce; rfl
@[simp] theorem LaneUnit.deriveNonce_DIG (bl bh : Word) : (u.deriveNonce bl bh).DIG = u.DIG := by
  unfold LaneUnit.deriveNonce; rfl
@[simp] theorem LaneUnit.deriveNonce_nonceLo (bl bh : Word) : (u.deriveNonce bl bh).nonceLo = nonceLow bl u.laneIndex := by
  unfold LaneUnit.deriveNonce; rfl
@[simp] theorem LaneUnit.deriveNonce_nonceHi (bl bh : Word) : (u.deriveNonce bl bh).nonceHi = nonceHigh bl bh u.laneIndex := by
  unfold LaneUnit.deriveNonce; rfl
@[simp] theorem LaneUnit.deriveNonce_laneIndex (bl bh : Word) : (u.deriveNonce bl bh).laneIndex = u.laneIndex := by
  unfold LaneUnit.deriveNonce; rfl
@[simp] theorem LaneUnit.deriveNonce_inactive (bl bh : Word) : (u.deriveNonce bl bh).inactive = u.inactive := by
  unfold LaneUnit.deriveNonce; rfl

/-! ### build -/

@[simp] theorem LaneUnit.build_S : (u.build).S = u.S := by
  unfold LaneUnit.build; rfl
@[simp] theorem LaneUnit.build_IN : (u.build).IN = #v[u.nonceLo, u.nonceHi, 0, 0, 0, 0, 0, 0] := by
  unfold LaneUnit.build; rfl
@[simp] theorem LaneUnit.build_DIG : (u.build).DIG = u.DIG := by
  unfold LaneUnit.build; rfl
@[simp] theorem LaneUnit.build_nonceLo : (u.build).nonceLo = u.nonceLo := by
  unfold LaneUnit.build; rfl
@[simp] theorem LaneUnit.build_nonceHi : (u.build).nonceHi = u.nonceHi := by
  unfold LaneUnit.build; rfl
@[simp] theorem LaneUnit.build_laneIndex : (u.build).laneIndex = u.laneIndex := by
  unfold LaneUnit.build; rfl
@[simp] theorem LaneUnit.build_inactive : (u.build).inactive = u.inactive := by
  unfold LaneUnit.build; rfl

/-! ### hash -/

@[simp] theorem LaneUnit.hash_S (wo : WordOrder) : (u.hash wo).S = (u.clear.absorb.pad.permute wo).S := by
  unfold LaneUnit.hash; simp only [LaneUnit.extract_S]
@[simp] theorem LaneUnit.hash_DIG (wo : WordOrder) :
    (u.hash wo).DIG = (u.clear.absorb.pad.permute wo).extract.DIG := rfl
@[simp] theorem LaneUnit.hash_IN (wo : WordOrder) : (u.hash wo).IN = u.IN := by
  unfold LaneUnit.hash; simp
@[simp] theorem LaneUnit.hash_nonceLo (wo : WordOrder) : (u.hash wo).nonceLo = u.nonceLo := by
  unfold LaneUnit.hash; simp
@[simp] theorem LaneUnit.hash_nonceHi (wo : WordOrder) : (u.hash wo).nonceHi = u.nonceHi := by
  unfold LaneUnit.hash; simp
@[simp] theorem LaneUnit.hash_laneIndex (wo : WordOrder) : (u.hash wo).laneIndex = u.laneIndex := by
  unfold LaneUnit.hash; simp
@[simp] theorem LaneUnit.hash_inactive (wo : WordOrder) : (u.hash wo).inactive = u.inactive := by
  unfold LaneUnit.hash; simp

/-! ### Two lane units are equal if their registers are -/

theorem LaneUnit.ext_registers {u v : LaneUnit} (hS : u.S = v.S) (hIN : u.IN = v.IN) (hDIG : u.DIG = v.DIG)
    (hlo : u.nonceLo = v.nonceLo) (hhi : u.nonceHi = v.nonceHi) (hidx : u.laneIndex = v.laneIndex)
    (hina : u.inactive = v.inactive) : u = v := by
  cases u; cases v; simp_all

/-- A lane record has ten words: NONCE_LO, NONCE_HI, then the digest. -/
theorem LaneUnit.length_record : u.record.length = 10 := by simp [LaneUnit.record]

theorem LaneUnit.record_digest (k : Fin 8) : u.record[2 + k.val]? = some (u.DIG.get k) := by
  rw [LaneUnit.record, show 2 + k.val = (k.val + 1) + 1 by omega]
  simp [Vector.get_eq_getElem]

/-! ### The whole effect of a permutation micro-op -/

/-- The whole effect of a micro-op that is a function of S's lanes. -/
theorem State.permuteUnit_unitStep {s : State} {u : LaneUnit} (hu : s.unit? = some u) (f : Lanes → Lanes)
    (p : Nat → Bool) :
    ∃ t, s.permuteUnit f p = .next t
      ∧ UnitStep s t { u with S := ofLanes s.params.wordOrder (f (toLanes s.params.wordOrder u.S)) }
          (Reg.isS p) nextUpc :=
  State.updateUnit_unitStep (f := fun u => u.mapLanes s.params.wordOrder f) hu
    (LaneUnit.mapLanes_laneIndex u s.params.wordOrder f)

theorem roundIndex?_ofNat (r : Fin 24) : roundIndex? (BitVec.ofNat 5 r.val) = some r := by
  have h : (BitVec.ofNat 5 r.val).toNat = r.val := by
    rw [BitVec.toNat_ofNat, Nat.mod_eq_of_lt (by omega)]
  unfold roundIndex?
  rw [dif_pos (by omega)]
  simp only [h, Fin.eta]

/-- A round index in range picks its round. -/
theorem State.permuteUnitRound_ofNat (s : State) (r : Fin 24) (f : Fin 24 → Lanes → Lanes) (p : Nat → Bool) :
    s.permuteUnitRound (BitVec.ofNat 5 r.val) f p = s.permuteUnit (f r) p := by
  simp only [State.permuteUnitRound, roundIndex?_ofNat]

/-- A round index out of range is answered with ILLEGAL_UOP (log 15). -/
theorem State.permuteUnitRound_outOfRange (s : State) {r : BitVec 5} (h : 24 ≤ r.toNat)
    (f : Fin 24 → Lanes → Lanes) (p : Nat → Bool) :
    s.permuteUnitRound r f p = .next (s.raise errIllegalUop) := by
  simp only [State.permuteUnitRound, roundIndex?, dif_neg (show ¬r.toNat < 24 by omega)]

/-- S after a permutation micro-op, lane by lane. -/
theorem lane_mapped (wo : WordOrder) (S : Vector Word 50) (f : Lanes → Lanes) (L : Fin 25) :
    lane wo (ofLanes wo (f (toLanes wo S))) L = (f (toLanes wo S)).get L := lane_ofLanes wo _ L

end Sys2Proof.Machine
end

