-- ==== Sys2Proof/Laws/Memory.lean ====
section
/-! SUPPORT. RES as a list of words: a read after a write, and that every write keeps the canonical form and
the bound. -/
namespace Sys2Proof.Machine

@[simp] theorem Memory.read_nil (a : Nat) : Memory.read [] a = none := rfl

@[simp] theorem Memory.read_cons (c : ResCell) (m : Memory) (a : Nat) :
    Memory.read (c :: m) a = if c.1 = a then some c.2 else Memory.read m a := rfl

/-- The addresses of a canonical memory's tail all lie above its head. -/
theorem Memory.wf_cons {c : ResCell} {m : Memory} (h : Memory.wf (c :: m)) :
    (∀ d ∈ m, c.1 < d.1) ∧ Memory.wf m := by
  simp only [Memory.wf, List.map_cons, List.pairwise_cons, List.mem_map, forall_exists_index, and_imp,
    forall_apply_eq_imp_iff₂] at h
  exact h

theorem Memory.wf_cons_iff {c : ResCell} {m : Memory} :
    Memory.wf (c :: m) ↔ (∀ d ∈ m, c.1 < d.1) ∧ Memory.wf m := by
  simp only [Memory.wf, List.map_cons, List.pairwise_cons, List.mem_map, forall_exists_index, and_imp,
    forall_apply_eq_imp_iff₂]

theorem Memory.read_eq_none_of_lt {m : Memory} {a : Nat} (h : ∀ d ∈ m, a < d.1) : Memory.read m a = none := by
  induction m with
  | nil => rfl
  | cons c m ih =>
    have hc := h c (by simp)
    rw [Memory.read_cons, if_neg (by omega), ih fun d hd => h d (by simp [hd])]

/-- A read after a write: the value written at its address, what stood there before anywhere else. -/
theorem Memory.read_write {m : Memory} (h : Memory.wf m) (a b : Nat) (v : Word) :
    Memory.read (Memory.write m a v) b = if a = b then some v else Memory.read m b := by
  induction m with
  | nil => simp [Memory.write]
  | cons c m ih =>
    obtain ⟨hc, hm⟩ := Memory.wf_cons h
    unfold Memory.write
    split
    · rfl
    · split
      · subst_vars
        simp only [Memory.read_cons]
        split <;> rfl
      · simp only [Memory.read_cons, ih hm]
        split
        · rw [if_neg (by omega)]
        · rfl

/-- An entry after a write is the one written or an earlier one. -/
theorem Memory.mem_write {m : Memory} {a : Nat} {v : Word} {d : ResCell} (h : d ∈ Memory.write m a v) :
    d = (a, v) ∨ d ∈ m := by
  induction m with
  | nil => simpa [Memory.write] using h
  | cons c m ih =>
    unfold Memory.write at h
    split at h
    · simpa using h
    · split at h
      · simp only [List.mem_cons] at h ⊢
        tauto
      · simp only [List.mem_cons] at h ⊢
        rcases h with h | h
        · tauto
        · rcases ih h with h | h <;> tauto

/-- A write keeps the canonical form. -/
theorem Memory.wf_write {m : Memory} (h : Memory.wf m) (a : Nat) (v : Word) :
    Memory.wf (Memory.write m a v) := by
  induction m with
  | nil => simp [Memory.write, Memory.wf]
  | cons c m ih =>
    obtain ⟨hc, hm⟩ := Memory.wf_cons h
    unfold Memory.write
    split
    · refine Memory.wf_cons_iff.2 ⟨?_, h⟩
      simp only [List.mem_cons, forall_eq_or_imp]
      exact ⟨by assumption, fun d hd => by have := hc d hd; omega⟩
    · split
      · subst_vars
        exact Memory.wf_cons_iff.2 ⟨hc, hm⟩
      · refine Memory.wf_cons_iff.2 ⟨fun d hd => ?_, ih hm⟩
        rcases Memory.mem_write hd with rfl | hd
        · simp only; omega
        · exact hc d hd

theorem Memory.wf_writeWords {m : Memory} (h : Memory.wf m) (a : Nat) (vs : List Word) :
    Memory.wf (Memory.writeWords m a vs) := by
  induction vs generalizing m a with
  | nil => exact h
  | cons v vs ih => exact ih (Memory.wf_write h a v) (a + 1)

/-- A read after consecutive writes. -/
theorem Memory.read_writeWords {m : Memory} (h : Memory.wf m) (a b : Nat) (vs : List Word) :
    Memory.read (Memory.writeWords m a vs) b
      = if a ≤ b ∧ b < a + vs.length then vs[b - a]? else Memory.read m b := by
  induction vs generalizing m a with
  | nil => simp [Memory.writeWords]
  | cons v vs ih =>
    rw [Memory.writeWords, ih (Memory.wf_write h a v), Memory.read_write h]
    by_cases hb : a = b
    · subst hb
      simp
    · simp only [List.length_cons, hb, if_false]
      by_cases hin : a + 1 ≤ b ∧ b < a + 1 + vs.length
      · rw [if_pos hin, if_pos (by omega), show b - a = (b - (a + 1)) + 1 by omega, List.getElem?_cons_succ]
      · rw [if_neg hin, if_neg (by omega)]

/-- No entry of a memory lies at or above a bound that every write respects. -/
theorem Memory.bound_writeWords {m : Memory} {n : Nat} (h : ∀ c ∈ m, c.1 < n) {a : Nat} {vs : List Word}
    (hn : a + vs.length ≤ n) : ∀ c ∈ Memory.writeWords m a vs, c.1 < n := by
  induction vs generalizing m a with
  | nil => exact h
  | cons v vs ih =>
    simp only [List.length_cons] at hn
    refine ih (fun c hc => ?_) (by omega)
    rcases Memory.mem_write hc with rfl | hc
    · simp only; omega
    · exact h c hc

/-- A memory in canonical form holds an entry exactly where a read finds its value. -/
theorem Memory.mem_iff_read {m : Memory} (h : Memory.wf m) (a : Nat) (v : Word) :
    (a, v) ∈ m ↔ Memory.read m a = some v := by
  induction m with
  | nil => simp
  | cons c m ih =>
    obtain ⟨hc, hm⟩ := Memory.wf_cons h
    rw [Memory.read_cons, List.mem_cons, ih hm]
    obtain ⟨b, w⟩ := c
    by_cases hab : b = a
    · subst hab
      have : Memory.read m b = none := Memory.read_eq_none_of_lt hc
      simp [this, eq_comm]
    · simp [hab, Ne.symm hab]

/-- Two memories in canonical form that read alike at every address are the same list. -/
theorem Memory.ext {m n : Memory} (hm : Memory.wf m) (hn : Memory.wf n)
    (h : ∀ a, Memory.read m a = Memory.read n a) : m = n := by
  induction m generalizing n with
  | nil =>
    cases n with
    | nil => rfl
    | cons d n => have := h d.1; simp at this
  | cons c m ih =>
    cases n with
    | nil => have := h c.1; simp at this
    | cons d n =>
      obtain ⟨hc, hm'⟩ := Memory.wf_cons hm
      obtain ⟨hd, hn'⟩ := Memory.wf_cons hn
      have hcd : c.1 = d.1 := by
        by_contra hne
        rcases Nat.lt_or_gt_of_ne hne with hlt | hlt
        · have := h c.1
          rw [Memory.read_cons, if_pos rfl, Memory.read_cons, if_neg (by omega),
            Memory.read_eq_none_of_lt fun e he => by have := hd e he; omega] at this
          simp at this
        · have := h d.1
          rw [Memory.read_cons, if_neg (by omega), Memory.read_cons, if_pos rfl,
            Memory.read_eq_none_of_lt fun e he => by have := hc e he; omega] at this
          simp at this
      have hv : c.2 = d.2 := by
        have := h c.1
        simpa [hcd] using this
      have hcd' : c = d := Prod.ext hcd hv
      subst hcd'
      refine congrArg _ (ih hm' hn' fun a => ?_)
      by_cases ha : c.1 = a
      · subst ha
        rw [Memory.read_eq_none_of_lt hc, Memory.read_eq_none_of_lt hd]
      · have := h a
        simpa [ha] using this

end Sys2Proof.Machine
end

