-- ==== Sys2Proof/Laws/Dispatch.lean ====
section
/-! SUPPORT. What one step of a live lane execution does, said once: `State.laneStep_next` for the ROM addresses
0 to 8 and `State.laneStep_halt` for 9. -/
namespace Sys2Proof.Machine

/-- Lane executions with distinct indices: one is in the list exactly when it is the one found. -/
theorem find?_laneIndex {ls : List LaneExec} (hd : (ls.map (·.unit.laneIndex)).Nodup) {l : LaneExec} (hl : l ∈ ls) :
    ls.find? (fun m => m.unit.laneIndex == l.unit.laneIndex) = some l := by
  induction ls with
  | nil => cases hl
  | cons m ms ih =>
    rw [List.map_cons, List.nodup_cons] at hd
    rcases List.mem_cons.1 hl with rfl | hm
    · simp
    · have hne : (m.unit.laneIndex == l.unit.laneIndex) = false :=
        beq_false_of_ne fun h => hd.1 (h ▸ List.mem_map_of_mem hm)
      rw [List.find?_cons, hne]
      exact ih hd.2 hm

theorem State.lane?_of_mem {s : State} (hd : (s.lanes.map (·.unit.laneIndex)).Nodup) {l : LaneExec}
    (hl : l ∈ s.lanes) : s.lane? l.unit.laneIndex = some l := find?_laneIndex hd hl

theorem State.mem_unique {s : State} (hd : (s.lanes.map (·.unit.laneIndex)).Nodup) {l m : LaneExec} (hl : l ∈ s.lanes)
    (hm : m ∈ s.lanes) (h : l.unit.laneIndex = m.unit.laneIndex) : l = m := by
  have h1 := State.lane?_of_mem hd hl
  have h2 := State.lane?_of_mem hd hm
  rw [h, h2] at h1
  exact (Option.some.inj h1).symm

/-- With distinct indices a change of lane execution `i` is a replacement of the one found. -/
theorem State.modifyLane_of_lane {s : State} (hd : (s.lanes.map (·.unit.laneIndex)).Nodup) {i : Word} {l : LaneExec}
    (hl : s.lane? i = some l) (f : LaneExec → LaneExec) : s.modifyLane i f = s.modifyLane i fun _ => f l := by
  unfold State.modifyLane
  congr 1
  refine List.map_congr_left fun m hm => ?_
  split
  · rename_i hmi
    have hli := State.lane?_laneIndex hl
    rw [State.mem_unique hd hm (State.lane?_mem hl) (hmi.trans hli.symm)]
  · rfl

/-- A lane unit after the micro-op at ROM address `n` (rule R150). -/
def laneUnitAfter (s : State) (n : Nat) (u : LaneUnit) : LaneUnit :=
  match n with
  | 0 => { u with inactive := guardFlag u.laneIndex s.laneCount }
  | 1 => u.deriveNonce s.baseNonceLo s.baseNonceHi
  | 2 => u.build
  | 3 => u.clear
  | 4 => u.absorb
  | 5 => u.pad
  | 6 => u.permute s.params.wordOrder
  | 7 => u.extract
  | _ => u

/-- A live lane execution after its next step, unless that ends it. -/
def laneNext (s : State) (l : LaneExec) : LaneExec where
  unit := laneUnitAfter s l.upc.toNat l.unit
  upc := if l.upc.toNat = 0 ∧ guardFlag l.unit.laneIndex s.laneCount = true then 9 else l.upc + 1

/-- RES after the next step of a live lane execution: PACK at address 8 writes the record. -/
def laneRes (s : State) (l : LaneExec) : Memory :=
  if l.upc.toNat = 8 ∧ l.unit.inactive = false then Memory.writeWords s.res (slotBase l.unit.laneIndex) l.unit.record
  else s.res

theorem laneUnitAfter_laneIndex (s : State) (n : Nat) (u : LaneUnit) :
    (laneUnitAfter s n u).laneIndex = u.laneIndex := by
  unfold laneUnitAfter
  split <;> simp

@[simp] theorem laneNext_laneIndex (s : State) (l : LaneExec) : (laneNext s l).unit.laneIndex = l.unit.laneIndex :=
  laneUnitAfter_laneIndex s _ _

/-- The update of the executing lane unit by a micro-op that is a function of the unit. -/
theorem State.updateUnit_of_lane {s : State} (hd : (s.lanes.map (·.unit.laneIndex)).Nodup) {i : Word} {l : LaneExec}
    (hl : s.lane? i = some l) {f : LaneUnit → LaneUnit} {p : Reg → Bool} (hf : (f l.unit).laneIndex = l.unit.laneIndex) :
    State.updateUnit { s with running := .lane i } f p
      = .next { s.modifyLane i (fun _ => { unit := f l.unit, upc := l.upc + 1 }) with running := .lane i } := by
  have hr : ({ s with running := .lane i } : State).running = .lane i := rfl
  have hu : ({ s with running := .lane i } : State).unit? = some l.unit := by
    rw [State.unit?_lane hr, show ({ s with running := .lane i } : State).lane? i = some l from hl]
    rfl
  have hk : KeepsIndex i fun l' : LaneExec => { l' with unit := f l.unit } := fun m _ => by
    rw [hf, State.lane?_laneIndex hl]
  rw [State.updateUnit, State.onUnit_of_unit hu]
  simp only [State.advance, State.markUnit_running, State.setUnit_running]
  simp only [State.setUnit, State.markUnit, State.modifyLane_running, State.modifyLane_modifyLane _ hk]
  rw [State.modifyLane_of_lane (s := { s with running := .lane i }) hd hl]
  rfl

/-- `advance` on a dispatch lane unit. -/
theorem State.advance_of_lane {s : State} (hd : (s.lanes.map (·.unit.laneIndex)).Nodup) {i : Word} {l : LaneExec}
    (hl : s.lane? i = some l) :
    State.advance { s with running := .lane i }
      = { s.modifyLane i (fun _ => { l with upc := l.upc + 1 }) with running := .lane i } := by
  simp only [State.advance]
  rw [State.modifyLane_of_lane (s := { s with running := .lane i }) hd hl]
  rfl

/-- The step of a live lane execution at a ROM address from 0 to 8, where its PACK, if it is at one, fits. -/
theorem State.laneStep_next {s : State} (hd : (s.lanes.map (·.unit.laneIndex)).Nodup) {i : Word} {l : LaneExec}
    (hl : s.lane? i = some l) (hn : l.upc.toNat ≤ 8)
    (hfit : l.upc.toNat = 8 → l.unit.inactive = false → slotBase l.unit.laneIndex + 10 ≤ s.params.resultsWords.val) :
    s.laneStep i
      = .next { s.modifyLane i (fun _ => laneNext s l) with running := .lane i, res := laneRes s l } := by
  have hr : ({ s with running := .lane i } : State).running = .lane i := rfl
  have hu : ({ s with running := .lane i } : State).unit? = some l.unit := by
    rw [State.unit?_lane hr, show ({ s with running := .lane i } : State).lane? i = some l from hl]
    rfl
  have hcases : l.upc.toNat = 0 ∨ l.upc.toNat = 1 ∨ l.upc.toNat = 2 ∨ l.upc.toNat = 3 ∨ l.upc.toNat = 4
      ∨ l.upc.toNat = 5 ∨ l.upc.toNat = 6 ∨ l.upc.toNat = 7 ∨ l.upc.toNat = 8 := by omega
  rcases hcases with h | h | h | h | h | h | h | h | h
  · rw [State.laneStep_of_rom (w := 0x3000) (op := .guard) hl (by rw [h]; rfl) decode_guard]
    rw [exec, execGuard, State.onUnit_of_unit hu]
    have hk : KeepsIndex i fun l' : LaneExec =>
        { l' with unit := { l.unit with inactive := guardFlag l.unit.laneIndex s.laneCount } } :=
      fun _ _ => (State.lane?_laneIndex hl : l.unit.laneIndex = i)
    simp only [laneNext, laneRes, laneUnitAfter, h]
    unfold State.guardBranch
    by_cases hg : guardFlag l.unit.laneIndex s.laneCount = true
    · simp only [hg, if_true, State.setUpc, State.setUnit, State.modifyLane_running, and_self]
      rw [hg] at hk
      rw [State.modifyLane_modifyLane _ hk, State.modifyLane_of_lane (s := { s with running := .lane i }) hd hl]
      rfl
    · simp only [hg, State.advance, State.setUnit, State.modifyLane_running]
      simp only [Bool.not_eq_true] at hg
      rw [hg] at hk
      simp only [Bool.false_eq_true, if_false, and_false]
      rw [State.modifyLane_modifyLane _ hk, State.modifyLane_of_lane (s := { s with running := .lane i }) hd hl]
      rfl
  · rw [State.laneStep_of_rom (w := 0x3100) (op := .nonce) hl (by rw [h]; rfl) decode_nonce]
    rw [exec, execNonce, State.updateUnit_of_lane hd hl (by simp)]
    simp only [laneNext, laneRes, laneUnitAfter, h]
    rfl
  · rw [State.laneStep_of_rom (w := 0x3200) (op := .build) hl (by rw [h]; rfl) decode_build]
    rw [exec, execBuild, State.updateUnit_of_lane hd hl (by simp)]
    simp only [laneNext, laneRes, laneUnitAfter, h]
    rfl
  · rw [State.laneStep_of_rom (w := 0x2000) (op := .clear) hl (by rw [h]; rfl) decode_clear]
    rw [exec, execClear, State.updateUnit_of_lane hd hl (by simp)]
    simp only [laneNext, laneRes, laneUnitAfter, h]
    rfl
  · rw [State.laneStep_of_rom (w := 0x2100) (op := .absorb) hl (by rw [h]; rfl) decode_absorb]
    rw [exec, execAbsorb, State.updateUnit_of_lane hd hl (by simp)]
    simp only [laneNext, laneRes, laneUnitAfter, h]
    rfl
  · rw [State.laneStep_of_rom (w := 0x2200) (op := .pad) hl (by rw [h]; rfl) decode_pad]
    rw [exec, execPad, State.updateUnit_of_lane hd hl (by simp)]
    simp only [laneNext, laneRes, laneUnitAfter, h]
    rfl
  · rw [State.laneStep_of_rom (w := 0x1500) (op := .permute) hl (by rw [h]; rfl) decode_permute]
    rw [exec, execPermute, State.permuteUnit, State.updateUnit_of_lane hd hl (by simp)]
    simp only [laneNext, laneRes, laneUnitAfter, h, LaneUnit.permute]
    rfl
  · rw [State.laneStep_of_rom (w := 0x2300) (op := .extract) hl (by rw [h]; rfl) decode_extract]
    rw [exec, execExtract, State.updateUnit_of_lane hd hl (by simp)]
    simp only [laneNext, laneRes, laneUnitAfter, h]
    rfl
  · rw [State.laneStep_of_rom (w := 0x3300) (op := .pack) hl (by rw [h]; rfl) decode_pack]
    rw [exec, execPack, State.onUnit_of_unit hu]
    simp only [laneNext, laneRes, laneUnitAfter, h]
    cases hina : l.unit.inactive with
    | true =>
      simp only [if_true]
      rw [State.advance_of_lane hd hl]
      rfl
    | false =>
      simp only [State.packRecord, Bool.false_eq_true, if_false, if_pos (hfit h hina)]
      refine (congrArg Host.Outcome.next (State.advance_of_lane
        (s := { s with res := Memory.writeWords s.res (slotBase l.unit.laneIndex) l.unit.record }) hd hl)).trans ?_
      rfl

/-- The step of a live lane execution at ROM address 9: HALT ends it. -/
theorem State.laneStep_halt {s : State} {i : Word} {l : LaneExec} (hl : s.lane? i = some l) (hn : l.upc.toNat = 9) :
    s.laneStep i
      = .next { s with running := .lane i, lanes := s.lanes.filter fun m => m.unit.laneIndex != i } := by
  have hr : ({ s with running := .lane i } : State).running = .lane i := rfl
  have hu : ({ s with running := .lane i } : State).unit? = some l.unit := by
    rw [State.unit?_lane hr, show ({ s with running := .lane i } : State).lane? i = some l from hl]
    rfl
  rw [State.laneStep_of_rom (w := 0x3F00) (op := .halt) hl (by rw [hn]; rfl) decode_halt, exec, execHalt,
    State.onUnit_of_unit hu, State.endLane_of_lane hr]

end Sys2Proof.Machine
end

