-- ==== Sys2Proof/Laws/Encoding.lean ====
section
/-! SUPPORT. The fields of a word that the encoder builds (rule R71). -/
namespace Sys2Proof

theorem getLsbD_uopWord (opc : BitVec 8) (rnd : BitVec 5) (i : Nat) : (uopWord opc rnd).getLsbD i
    = if i < 5 then rnd.getLsbD i else if i < 8 then false else opc.getLsbD (i - 8) := by
  have h := BitVec.getLsbD_append (x := opc) (y := (0#3 ++ rnd : BitVec 8)) (i := i)
  have h' := BitVec.getLsbD_append (x := 0#3) (y := rnd) (i := i)
  rw [uopWord, h, h']
  by_cases h5 : i < 5
  · simp [h5, show i < 3 + 5 by omega]
  · by_cases h8 : i < 8 <;> simp [h5, h8]

@[simp] theorem opcField_uopWord (opc : BitVec 8) (rnd : BitVec 5) : opcField (uopWord opc rnd) = opc := by
  refine BitVec.eq_of_getLsbD_eq fun i hi => ?_
  simp only [opcField, BitVec.getLsbD_extractLsb', getLsbD_uopWord, hi, decide_true, Bool.true_and]
  rw [if_neg (by omega), if_neg (by omega), Nat.add_sub_cancel_left]

@[simp] theorem zField_uopWord (opc : BitVec 8) (rnd : BitVec 5) : zField (uopWord opc rnd) = 0 := by
  refine BitVec.eq_of_getLsbD_eq fun i hi => ?_
  simp only [zField, BitVec.getLsbD_extractLsb', getLsbD_uopWord, hi, decide_true, Bool.true_and]
  rw [if_neg (by omega), if_pos (by omega)]
  simp

@[simp] theorem rndField_uopWord (opc : BitVec 8) (rnd : BitVec 5) : rndField (uopWord opc rnd) = rnd := by
  refine BitVec.eq_of_getLsbD_eq fun i hi => ?_
  simp only [rndField, BitVec.getLsbD_extractLsb', getLsbD_uopWord, hi, decide_true, Bool.true_and]
  rw [if_pos (by omega), Nat.zero_add]

end Sys2Proof
end

