-- ==== Sys2Proof/Laws/Invariant.lean ====
section
/-! SUPPORT. A step of a live lane execution against the invariant: `LaneProgress.next` for the lane execution's own
registers, `State.DispatchInFlight.laneStep` for the whole machine, and what else keeps a dispatch in flight as
it is. -/
namespace Sys2Proof.Machine

@[simp] theorem inputUnit_IN (input : Vector Word 8) : (inputUnit input).IN = input := rfl

/-- Progress speaks of the configuration and the parameters alone. -/
theorem LaneProgress.congr {s t : State} {l : LaneExec} (h : LaneProgress s l) (hp : t.params = s.params)
    (hw : t.launchWidth = s.launchWidth) (hc : t.laneCount = s.laneCount) (hl : t.baseNonceLo = s.baseNonceLo)
    (hh : t.baseNonceHi = s.baseNonceHi) : LaneProgress t l := by
  obtain ⟨a, b, c, d, e, f, g, i, j⟩ := h
  have hn : t.nonceOf = s.nonceOf := by funext i; simp only [State.nonceOf, hl, hh]
  constructor <;> (try simp only [hn, hp, hw, hc]) <;> assumption

/-- `high : low` as a number. -/
theorem toNat_joinHalves (h l : Word) : (joinHalves h l).toNat = h.toNat * 2 ^ 32 + l.toNat := by
  rw [joinHalves, BitVec.toNat_append, Nat.mul_comm, Nat.two_pow_add_eq_or_of_lt l.isLt, Nat.shiftLeft_eq,
    Nat.mul_comm]

/-- NONCE's two words are the halves of base + index modulo 2^64. -/
theorem nonce_halves (s : State) (i : Word) :
    nonceLow s.baseNonceLo i = loHalf (s.nonceOf i.toNat)
      ∧ nonceHigh s.baseNonceLo s.baseNonceHi i = hiHalf (s.nonceOf i.toNat) := by
  have h : joinHalves (nonceHigh s.baseNonceLo s.baseNonceHi i) (nonceLow s.baseNonceLo i) = s.nonceOf i.toNat := by
    apply BitVec.eq_of_toNat_eq
    rw [State.nonceOf, toNat_joinHalves, BitVec.toNat_add, toNat_joinHalves, nonceHigh, nonceLow, addCarry]
    have h1 := s.baseNonceLo.isLt
    have h2 := s.baseNonceHi.isLt
    have h3 := i.isLt
    simp only [BitVec.lt_def, decide_eq_true_eq, BitVec.toNat_add, BitVec.toNat_ofNat]
    split
    · simp only [BitVec.toNat_add]
      simp only [BitVec.reduceToNat]
      omega
    · omega
  rw [← h]
  simp

/-- upc in the ROM before HALT does not wrap. -/
theorem upc_succ {n : BitVec 4} (h : n.toNat ≤ 8) : (n + 1).toNat = n.toNat + 1 := by
  rw [BitVec.toNat_add]
  simp only [BitVec.reduceToNat]
  omega

/-! ### An effect's result depends on the registers it reads -/

theorem LaneUnit.absorb_congr {u v : LaneUnit} (hS : u.S = v.S) (hIN : u.IN = v.IN) : u.absorb.S = v.absorb.S := by
  simp only [LaneUnit.absorb_S, hS, hIN]
theorem LaneUnit.pad_congr {u v : LaneUnit} (hS : u.S = v.S) : u.pad.S = v.pad.S := by
  simp only [LaneUnit.pad_S, hS]
theorem LaneUnit.permute_congr {u v : LaneUnit} (wo : WordOrder) (hS : u.S = v.S) :
    (u.permute wo).S = (v.permute wo).S := by
  simp only [LaneUnit.permute_S, hS]
theorem LaneUnit.extract_congr {u v : LaneUnit} (hS : u.S = v.S) : u.extract.DIG = v.extract.DIG := by
  simp only [LaneUnit.extract_DIG, hS]

/-! ### One lane execution -/

/-- The next step of a lane execution that is not at HALT leaves it where it should be. -/
theorem LaneProgress.next {s : State} {l : LaneExec} (hp : LaneProgress s l) (hn : l.upc.toNat ≤ 8) :
    LaneProgress s (laneNext s l) := by
  have hsucc := upc_succ hn
  by_cases h0 : l.upc.toNat = 0
  · have hu : (laneNext s l).unit = { l.unit with inactive := guardFlag l.unit.laneIndex s.laneCount } := by
      simp only [laneNext, laneUnitAfter, h0]
    by_cases hg : guardFlag l.unit.laneIndex s.laneCount = true
    · have hup : (laneNext s l).upc = 9 := by simp [laneNext, h0, hg]
      constructor <;> simp [hup, hu, hg, hp.launched]
    · have hup : (laneNext s l).upc.toNat = 1 := by simp [laneNext, h0, hg]
      simp only [Bool.not_eq_true] at hg
      constructor <;> simp [hup, hu, hg, hp.launched]
  · have hup : (laneNext s l).upc.toNat = l.upc.toNat + 1 := by
      rw [← hsucc, laneNext, if_neg (fun h => h0 h.1)]
    have hina : l.unit.inactive = false := by
      cases h : l.unit.inactive with
      | false => rfl
      | true => have := hp.skipped h; omega
    have hg := hp.guarded (by omega)
    have hcases : l.upc.toNat = 1 ∨ l.upc.toNat = 2 ∨ l.upc.toNat = 3 ∨ l.upc.toNat = 4
      ∨ l.upc.toNat = 5 ∨ l.upc.toNat = 6 ∨ l.upc.toNat = 7 ∨ l.upc.toNat = 8 := by omega
    have hu : (laneNext s l).unit = laneUnitAfter s l.upc.toNat l.unit := rfl
    have hin' : (laneUnitAfter s l.upc.toNat l.unit).inactive = l.unit.inactive := by
      rcases hcases with h | h | h | h | h | h | h | h <;> simp only [laneUnitAfter, h] <;> simp
    have hix := laneUnitAfter_laneIndex s l.upc.toNat l.unit
    refine ⟨by omega, by rw [hu, hix]; exact hp.launched, by omega, fun _ => by rw [hu, hin', hix]; exact hg,
      fun h => (by rw [hu, hin', hina] at h; cases h), ?_, ?_, ?_, ?_⟩
    all_goals rw [hu, hin', hup]
    all_goals intro _ hle
    · rw [hix]
      rcases hcases with h | h | h | h | h | h | h | h
      · simp only [laneUnitAfter, h, LaneUnit.deriveNonce_nonceLo, LaneUnit.deriveNonce_nonceHi]
        exact nonce_halves s _
      all_goals
        have := hp.nonce hina (by omega)
        simp only [laneUnitAfter, h]
        simpa using this
    · rw [hix]
      rcases hcases with h | h | h | h | h | h | h | h
      · omega
      · have := hp.nonce hina (by omega)
        simp only [laneUnitAfter, h, LaneUnit.build_IN, this.1, this.2, candidate]
      all_goals
        have := hp.built hina (by omega)
        simp only [laneUnitAfter, h]
        simpa using this
    · intro hle2
      rcases hcases with h | h | h | h | h | h | h | h
      · omega
      · omega
      · simp only [laneUnitAfter, h, stageS]; simp
      · have := hp.hashed hina (by omega) (by omega)
        simp only [laneUnitAfter, h, stageS] at this ⊢
        exact LaneUnit.absorb_congr (by simpa using this) (by simp)
      · have := hp.hashed hina (by omega) (by omega)
        simp only [laneUnitAfter, h, stageS] at this ⊢
        exact LaneUnit.pad_congr (by simpa using this)
      · have := hp.hashed hina (by omega) (by omega)
        simp only [laneUnitAfter, h, stageS] at this ⊢
        exact LaneUnit.permute_congr _ (by simpa using this)
      · omega
      · omega
    · rcases hcases with h | h | h | h | h | h | h | h
      iterate 6 omega
      · have := hp.hashed hina (by omega) (by omega)
        simp only [laneUnitAfter, h, stageS, hashDigest, LaneUnit.hash, LaneUnit.extract_IN] at this ⊢
        exact LaneUnit.extract_congr (by simpa using this)
      · have := hp.extracted hina (by omega)
        simpa only [laneUnitAfter, h] using this

/-! ### The machine -/

/-- Ending a lane execution takes its steps off those left. -/
theorem laneSteps_filter (ls : List LaneExec) (i : Word) (h : ∃ l ∈ ls, l.unit.laneIndex = i ∧ l.upc.toNat ≤ 9) :
    ((ls.filter fun m => m.unit.laneIndex != i).map fun l => 10 - l.upc.toNat).sum
      < (ls.map fun l => 10 - l.upc.toNat).sum := by
  have hle : ∀ ls : List LaneExec, ((ls.filter fun m => m.unit.laneIndex != i).map fun l => 10 - l.upc.toNat).sum
      ≤ (ls.map fun l => 10 - l.upc.toNat).sum := by
    intro ls
    induction ls with
    | nil => simp
    | cons m ms ih =>
      rw [List.filter_cons]; split <;> simp only [List.map_cons, List.sum_cons] <;> omega
  obtain ⟨l, hl, hi, hu⟩ := h
  induction ls with
  | nil => cases hl
  | cons m ms ih =>
    rcases List.mem_cons.1 hl with rfl | hm
    · have := hle ms
      rw [List.filter_cons, if_neg (by simp [hi])]
      simp only [List.map_cons, List.sum_cons]; omega
    · have := ih hm
      rw [List.filter_cons]
      split <;> simp only [List.map_cons, List.sum_cons] <;> omega

/-- The live lane executions after one has been replaced. -/
theorem State.mem_replaceLane {s : State} {i : Word} {l l' : LaneExec} (hl : s.lane? i = some l) (m : LaneExec) :
    m ∈ (s.modifyLane i fun _ => l').lanes ↔ m = l' ∨ (m ∈ s.lanes ∧ m.unit.laneIndex ≠ i) := by
  rw [State.modifyLane_lanes, List.mem_map]
  constructor
  · rintro ⟨a, ha, rfl⟩
    by_cases h : a.unit.laneIndex = i
    · left; rw [if_pos h]
    · right; rw [if_neg h]; exact ⟨ha, h⟩
  · rintro (rfl | ⟨hm, h⟩)
    · exact ⟨l, State.lane?_mem hl, by rw [if_pos (State.lane?_laneIndex hl)]⟩
    · exact ⟨m, hm, by rw [if_neg h]⟩

/-- What an active lane execution at PACK holds is its record (rule R161). -/
theorem LaneProgress.record_eq {s : State} {l : LaneExec} (hp : LaneProgress s l) (hi : l.unit.inactive = false)
    (hu : l.upc.toNat = 8) : l.unit.record = s.recordOf l.unit.laneIndex.toNat := by
  have h1 := hp.nonce hi (by omega)
  have h2 := hp.built hi (by omega)
  have h3 := hp.extracted hi (by omega)
  rw [LaneUnit.record, State.recordOf, h3, h2, h1.1, h1.2]

/-- A lane execution that passed GUARD as active is one whose slot START has checked (rules R152, R157). -/
theorem LaneProgress.active {s : State} {l : LaneExec} (hp : LaneProgress s l) (hi : l.unit.inactive = false)
    (hu : 1 ≤ l.upc.toNat) : l.unit.laneIndex.toNat < s.activeLanes := by
  have h1 := hp.guarded hu
  have h2 := hp.launched
  rw [hi] at h1
  simp only [guardFlag, BitVec.le_def] at h1
  have := of_decide_eq_false h1.symm
  rw [State.activeLanes]; omega

/-- Lane execution `i` has taken a step of a dispatch in flight: what holds after it, and what it changed. -/
structure LaneStepped (s t : State) (i : Word) : Prop where
  flight : t.DispatchInFlight
  wf : t.res.wf
  bound : ∀ c ∈ t.res, c.1 < s.params.resultsWords.val
  rest : t = { s with running := .lane i, lanes := t.lanes, res := t.res }
  left : t.laneStepsLeft < s.laneStepsLeft

/-- A live lane execution of a dispatch in flight answers a next state, in which the dispatch is in flight with
fewer lane steps left. -/
theorem State.DispatchInFlight.laneStep {s : State} (hf : s.DispatchInFlight) (hwf : s.res.wf)
    (hb : ∀ c ∈ s.res, c.1 < s.params.resultsWords.val) {i : Word} {l : LaneExec} (hl : s.lane? i = some l) :
    ∃ t, s.laneStep i = .next t ∧ LaneStepped s t i := by
  have hmem := State.lane?_mem hl
  have hidx := State.lane?_laneIndex hl
  have hp := hf.progress l hmem
  have huniq : ∀ m ∈ s.lanes, m.unit.laneIndex = i → m = l := fun m hm h =>
    State.mem_unique hf.distinct hm hmem (h.trans hidx.symm)
  by_cases hu : l.upc.toNat ≤ 8
  · have hfit : l.upc.toNat = 8 → l.unit.inactive = false →
        slotBase l.unit.laneIndex + 10 ≤ s.params.resultsWords.val := by
      intro h8 hi
      have := hp.active hi (by omega)
      have := hf.fits
      rw [slotBase]; omega
    refine ⟨_, State.laneStep_next hf.distinct hl hu hfit, ?_⟩
    have hpn := hp.next hu
    have hmm := fun m => State.mem_replaceLane (l' := laneNext s l) hl m
    generalize ht : ({ s.modifyLane i (fun _ => laneNext s l) with running := .lane i, res := laneRes s l } : State) = t
    have htl : t.lanes = (s.modifyLane i fun _ => laneNext s l).lanes := by rw [← ht]
    have htr : t.res = laneRes s l := by rw [← ht]
    have hrest : t = { s with running := .lane i, lanes := t.lanes, res := t.res } := by rw [← ht]; rfl
    have hact : t.activeLanes = s.activeLanes := by rw [hrest]; rfl
    have hrec : t.recordOf = s.recordOf := by rw [hrest]; rfl
    have hpar : t.params = s.params := by rw [hrest]
    have hras : t.resAtStart = s.resAtStart := by rw [hrest]
    have hcong : ∀ m, LaneProgress s m → LaneProgress t m := fun m hm =>
      hm.congr (by rw [hrest]) (by rw [hrest]) (by rw [hrest]) (by rw [hrest]) (by rw [hrest])
    have hlen : (laneNext s l).upc.toNat > l.upc.toNat := by
      have := upc_succ hu
      rw [laneNext]; simp only; split
      · simp only [BitVec.reduceToNat]; omega
      · omega
    have hn9 : (laneNext s l).upc.toNat ≤ 9 := hpn.upcInRom
    -- reads of res
    have hread : ∀ a, t.res.read a
        = if l.upc.toNat = 8 ∧ l.unit.inactive = false ∧ 10 * i.toNat ≤ a ∧ a < 10 * i.toNat + 10 then
            (s.recordOf i.toNat)[a - 10 * i.toNat]?
          else s.res.read a := by
      intro a
      rw [htr, laneRes]
      by_cases h8 : l.upc.toNat = 8 ∧ l.unit.inactive = false
      · rw [if_pos h8, Memory.read_writeWords hwf, LaneUnit.length_record, hp.record_eq h8.2 h8.1, slotBase, hidx]
        by_cases ha : 10 * i.toNat ≤ a ∧ a < 10 * i.toNat + 10
        · rw [if_pos ha, if_pos ⟨h8.1, h8.2, ha⟩]
        · rw [if_neg ha, if_neg (fun h => ha ⟨h.2.2.1, h.2.2.2⟩)]
      · rw [if_neg h8, if_neg (fun h => h8 ⟨h.1, h.2.1⟩)]
    have hunp : ∀ j, t.unpacked j ↔ if j = i.toNat then (laneNext s l).upc.toNat ≤ 8 else s.unpacked j := by
      intro j
      unfold State.unpacked
      rw [htl]
      simp only [hmm]
      split
      · rename_i hj
        constructor
        · rintro ⟨m, rfl | ⟨hm, hne⟩, hmj, hmu⟩
          · exact hmu
          · exact absurd (BitVec.eq_of_toNat_eq (hmj.trans hj)) hne
        · intro h
          exact ⟨_, Or.inl rfl, by rw [laneNext_laneIndex, hidx, hj], h⟩
      · rename_i hj
        constructor
        · rintro ⟨m, rfl | ⟨hm, hne⟩, hmj, hmu⟩
          · rw [laneNext_laneIndex, hidx] at hmj; exact absurd hmj.symm hj
          · exact ⟨m, hm, hmj, hmu⟩
        · rintro ⟨m, hm, hmj, hmu⟩
          exact ⟨m, Or.inr ⟨hm, by rintro rfl; exact hj hmj.symm⟩, hmj, hmu⟩
    have hsun : s.unpacked i.toNat := ⟨l, hmem, by rw [hidx], hu⟩
    refine ⟨⟨?_, ?_, ?_, ?_, ?_, ?_⟩, ?_, ?_, hrest, ?_⟩
    · rw [htl, State.laneIndices_modifyLane s (fun _ _ => by rw [laneNext_laneIndex, hidx])]
      exact hf.distinct
    · intro m hm
      rw [htl, hmm] at hm
      rcases hm with rfl | ⟨hm, -⟩
      · exact hcong _ hpn
      · exact hcong _ (hf.progress m hm)
    · rw [hact, hpar]; exact hf.fits
    · intro j hj hun k hk
      rw [hact] at hj
      rw [hras, hread]
      rw [hunp] at hun
      split at hun
      · subst j
        rw [if_neg (by omega)]
        exact hf.pending _ hj hsun k hk
      · rw [if_neg (by omega)]
        exact hf.pending _ hj hun k hk
    · intro j hj hun k hk
      rw [hact] at hj
      rw [hrec, hread]
      rw [hunp] at hun
      split at hun
      · subst j
        have h9 : (laneNext s l).upc.toNat = 9 := by omega
        by_cases h8 : l.upc.toNat = 8
        · have hina : l.unit.inactive = false := by
            cases h : l.unit.inactive with
            | false => rfl
            | true => have := hp.skipped h; omega
          rw [if_pos ⟨h8, hina, by omega, by omega⟩]
          congr 1; omega
        · exfalso
          have h0 : l.upc.toNat = 0 ∧ guardFlag l.unit.laneIndex s.laneCount = true := by
            by_contra hn
            have := upc_succ hu
            rw [laneNext] at h9; simp only [if_neg hn] at h9; omega
          have := h0.2
          simp only [guardFlag, decide_eq_true_eq, BitVec.le_def, hidx] at this
          rw [State.activeLanes] at hj; omega
      · rw [if_neg (by omega)]
        exact hf.packed _ hj hun k hk
    · intro a ha
      rw [hact] at ha
      rw [hras, hread, if_neg]
      · exact hf.outside a ha
      · rintro ⟨h8, hina, h1, h2⟩
        have := hp.active hina (by omega)
        rw [hidx] at this; omega
    · rw [htr, laneRes]; split
      · exact Memory.wf_writeWords hwf _ _
      · exact hwf
    · rw [htr, laneRes]; split
      · rename_i h8
        exact Memory.bound_writeWords hb (by rw [LaneUnit.length_record]; exact hfit h8.1 h8.2)
      · exact hb
    · unfold State.laneStepsLeft
      rw [htl, State.modifyLane_lanes, List.map_map]
      refine List.sum_lt_sum _ _ (fun m hm => ?_) ⟨l, hmem, ?_⟩
      · simp only [Function.comp_apply]
        split
        · rename_i h
          rw [huniq m hm h]; omega
        · exact Nat.le_refl _
      · simp only [Function.comp_apply, hidx, if_true]; omega
  · have h9 : l.upc.toNat = 9 := by have := hp.upcInRom; omega
    refine ⟨_, State.laneStep_halt hl h9, ?_⟩
    have hunp : ∀ j, State.unpacked
        { s with running := .lane i, lanes := s.lanes.filter fun m => m.unit.laneIndex != i } j ↔ s.unpacked j := by
      intro j
      unfold State.unpacked
      simp only [List.mem_filter, bne_iff_ne]
      constructor
      · rintro ⟨m, ⟨hm, _⟩, h⟩; exact ⟨m, hm, h⟩
      · rintro ⟨m, hm, h⟩
        refine ⟨m, ⟨hm, fun hmi => ?_⟩, h⟩
        have := huniq m hm hmi
        subst this; omega
    refine ⟨⟨?_, ?_, hf.fits, fun j hj hun => hf.pending j hj ((hunp j).1 hun),
      fun j hj hun => hf.packed j hj (fun h => hun ((hunp j).2 h)), hf.outside⟩, hwf, hb, rfl,
      laneSteps_filter _ _ ⟨l, hmem, hidx, hp.upcInRom⟩⟩
    · exact hf.distinct.sublist (List.Sublist.map _ List.filter_sublist)
    · intro m hm
      refine LaneProgress.congr (hf.progress m (List.mem_of_mem_filter hm)) ?_ ?_ ?_ ?_ ?_ <;> rfl

end Sys2Proof.Machine
end

