-- ==== Sys2Proof/Laws/PerInstr.lean ====
section
/-! SUPPORT. The per-instruction family EncodeFormat: an instruction's word has the one format of rule R70, with
Z = 000, and its RND is its operand, or 0 where it has none. -/
namespace Sys2Proof.Laws.EncodeFormat

/-- The round index of an instruction as its word holds it. -/
def operand : Instr → BitVec 5
  | .theta => 0
  | .rhopi => 0
  | .chi => 0
  | .iota r => r
  | .round r => r
  | .permute => 0
  | .clear => 0
  | .absorb => 0
  | .pad => 0
  | .extract => 0
  | .hash => 0
  | .guard => 0
  | .nonce => 0
  | .build => 0
  | .pack => 0
  | .halt => 0

/-- The word of an instruction has Z = 000 and its operand in RND, and a well-formed instruction's RND is a
legal round index. -/
def Statement (i : Instr) : Prop :=
  zField (encode i) = 0 ∧ rndField (encode i) = operand i
    ∧ (i.wellFormed = true → (rndField (encode i)).toNat < 24)

theorem theta : Statement .theta := by unfold Statement; decide
theorem rhopi : Statement .rhopi := by unfold Statement; decide
theorem chi : Statement .chi := by unfold Statement; decide
theorem iota (r : BitVec 5) : Statement (.iota r) :=
  ⟨zField_uopWord _ _, rndField_uopWord _ _, fun h => by
    rw [show rndField (encode (.iota r)) = r from rndField_uopWord _ _]
    exact of_decide_eq_true h⟩
theorem round (r : BitVec 5) : Statement (.round r) :=
  ⟨zField_uopWord _ _, rndField_uopWord _ _, fun h => by
    rw [show rndField (encode (.round r)) = r from rndField_uopWord _ _]
    exact of_decide_eq_true h⟩
theorem permute : Statement .permute := by unfold Statement; decide
theorem clear : Statement .clear := by unfold Statement; decide
theorem absorb : Statement .absorb := by unfold Statement; decide
theorem pad : Statement .pad := by unfold Statement; decide
theorem extract : Statement .extract := by unfold Statement; decide
theorem hash : Statement .hash := by unfold Statement; decide
theorem guard : Statement .guard := by unfold Statement; decide
theorem nonce : Statement .nonce := by unfold Statement; decide
theorem build : Statement .build := by unfold Statement; decide
theorem pack : Statement .pack := by unfold Statement; decide
theorem halt : Statement .halt := by unfold Statement; decide

end Sys2Proof.Laws.EncodeFormat
end

