-- ==== Sys2Proof/Laws/Strict.lean ====
section
/-! SUPPORT. Everything `strictStep` can do, and when a step reads an UNSPECIFIED register, agent by agent
(rule R213). -/
namespace Sys2Proof.Machine

theorem strictStep_of_reads {s : State} (h : s.readsUnspecified = true) : strictStep s = .fault .unspecifiedRead := by
  rw [strictStep, if_pos h]

theorem strictStep_of_clean {s : State} (h : s.readsUnspecified = false) : strictStep s = step s := by
  rw [strictStep, h]; rfl

/-- Where the strict step answers a next state it has read no UNSPECIFIED register and is the step. -/
theorem strictStep_next {s t : State} (h : strictStep s = .next t) : s.readsUnspecified = false ∧ step s = .next t := by
  cases hr : s.readsUnspecified with
  | true => rw [strictStep_of_reads hr] at h; cases h
  | false => exact ⟨rfl, (strictStep_of_clean hr).symm.trans h⟩

theorem State.readsUnspecified_host {s : State} (h : s.pick = some .host) :
    s.readsUnspecified = s.hostReadsUnspecified := by rw [State.readsUnspecified, h]

theorem State.readsUnspecified_lane {s : State} {i : Word} (h : s.pick = some (.lane i)) :
    s.readsUnspecified = s.laneReadsUnspecified i := by rw [State.readsUnspecified, h]

/-- A host write of a REG word as the next access. -/
theorem State.hostReadsUnspecified_write {s : State} {a : BitVec 8} {v : Word} {rest : List HostEvent}
    (h : s.inbox = .writeReg a v :: rest) :
    s.hostReadsUnspecified = (!s.busy && s.writeReadsUnspecified (regAt a) v) := by
  rw [State.hostReadsUnspecified, h]

/-- A live lane execution at a micro-op of the ROM. -/
theorem State.laneReadsUnspecified_of_rom {s : State} {i : Word} {l : LaneExec} {op : Instr}
    (hl : s.lane? i = some l) (h : (romWord l.upc).map decode = some (.legal op)) :
    s.laneReadsUnspecified i = s.unwritten.any fun r => r.isLaneConfig && Instr.reads false op r := by
  rw [State.laneReadsUnspecified, hl]
  simp only [Option.bind_some, h]

end Sys2Proof.Machine
end

