-- ==== Sys2Proof/Laws/Textbook.lean ====
section
/-! SUPPORT. The engine's table of round constants against the LFSR that item I1 makes them from. -/
namespace Sys2Proof.Machine

theorem roundConstant_eq_textbook : ∀ r : Fin 24, roundConstant r = Textbook.roundConstant r := by decide +kernel

end Sys2Proof.Machine
end

