-- ==== Sys2Proof/Tests/Slice0.lean ====
section
/-! SUPPORT. Tests. Expected values are those of spec/95_test_vectors.md (named in each comment) or worked by
hand from the rule named. -/
namespace Sys2Proof.Tests
open Sys2Proof.Machine

-- One theorem after the other: side by side, each would hold a thread while it waits for the kernel.
set_option Elab.async false

/-! ## WellFormed: an ill-formed term for each check -/

/-- Rule R74, clause 3: a round index of 24 is refused for IOTA. -/
theorem test_wellFormed_iota : (Instr.iota 24).wellFormed = false := by decide

/-- Rule R74, clause 3: a round index of 31 is refused for ROUND. -/
theorem test_wellFormed_round : (Instr.round 31).wellFormed = false := by decide

/-! ## Decoding (section 2.12) -/

/-- The illegal words of section 2.12, each with its reason. -/
theorem test_decode_illegal :
    [0x1318, 0x1501, 0x1020, 0x13E0, 0x0000, 0x1600, 0x3400, 0xFF00].map decode
      = [.illegal .roundOutOfRange, .illegal .rndNonZero, .illegal .zNonZero, .illegal .zNonZero,
         .illegal .reservedOpcode, .illegal .reservedOpcode, .illegal .reservedOpcode,
         .illegal .reservedOpcode] := by decide

/-- Rules R70 and R73, a word per family, OPC, Z and RND bit by bit: ROUND 18, ABSORB, NONCE. Decode.lean shows
one for every constructor. -/
theorem test_decode_bits : [0b00010100_000_10010, 0b00100001_000_00000, 0b00110001_000_00000].map decode
    = [.legal (.round 18), .legal .absorb, .legal .nonce] := by decide

/-- Rule R77: bits 31:16 of a TEST_UOP value. -/
theorem test_decode_upper : decodeTestUop 0x00011500 = .illegal .upperBitsNonZero := by decide

/-! ## Helpers -/

/-- A lane unit with 0 in every register. -/
def zeroUnit : LaneUnit := inputUnit (Vector.replicate 8 0)

/-- A machine of `n` result words with a given test unit, and 0 in the configuration registers. -/
def withUnit (n : Fin (2 ^ 32 + 1)) (u : LaneUnit) : State :=
  { State.reset with
    params := { resultsWords := n, wordOrder := .lowFirst }
    launchWidth := 0, baseNonceLo := 0, baseNonceHi := 0, laneCount := 0, test := u }

/-- The lanes listed, every other lane 0. -/
def sparse (l : List (Fin 25 × LaneWord)) : Lanes :=
  l.foldl (fun A p => A.set p.1 p.2) (Vector.replicate 25 0)

/-- A test unit whose S holds the given lanes. -/
def unitOfLanes (A : Lanes) : LaneUnit := { zeroUnit with S := ofLanes .lowFirst A }

/-- The test unit's lanes after a micro-op on a machine whose S holds the lanes `A`. -/
def lanesAfter (A : Lanes) (i : Instr) : Option Lanes :=
  match exec i (withUnit 30 (unitOfLanes A)) with
  | .next t => some (toLanes .lowFirst t.test.S)
  | _ => none

/-- The test unit after a micro-op. -/
def unitAfter (s : State) (i : Instr) : Option LaneUnit :=
  match exec i s with
  | .next t => some t.test
  | _ => none

/-- A lane execution with LANE_INDEX `i`, at a given upc. -/
def laneExec (i : Word) (upc : BitVec 4) : LaneExec :=
  { unit := { zeroUnit with laneIndex := i }, upc := upc }

/-- A dispatch in flight with three live lane executions, the middle one executing. -/
def busyState (laneCount : Word) (upc : BitVec 4) : State :=
  { withUnit 30 zeroUnit with
    busy := true
    launchWidth := 3
    laneCount := laneCount
    lanes := [laneExec 0 5, laneExec 1 upc, laneExec 2 6]
    running := .lane 1 }

/-- Every lane execution's index and upc after a micro-op. -/
def upcsAfter (s : State) (i : Instr) : Option (List (Word × BitVec 4)) :=
  match exec i s with
  | .next t => some (t.lanes.map fun l => (l.unit.laneIndex, l.upc))
  | _ => none

/-- STATUS after an outcome. -/
def statusAfter (r : Result) : Option Word :=
  match r with
  | .next t => some t.statusWord
  | _ => none

/-! ## The rotate (section 2.1) -/

/-- V-ROT1, s = 0, 31, 32, 33, 44, 63. -/
theorem test_rotlHalf :
    [0, 31, 32, 33, 44, 63].map (rotlHalf 0x01234567 0x89ABCDEF)
      = [(0x01234567, 0x89ABCDEF), (0xC4D5E6F7, 0x8091A2B3), (0x89ABCDEF, 0x01234567),
         (0x13579BDE, 0x02468ACF), (0xBCDEF012, 0x3456789A), (0x8091A2B3, 0xC4D5E6F7)] := by decide

/-! ## Permutation micro-ops (sections 2.2 to 2.6) -/

/-- V-T2: the rotate's carry, and t[1] = 0. -/
theorem test_theta : lanesAfter (sparse [(0, 1), (7, 0x8000000000000000)]) .theta
    = some (sparse [(0, 1), (3, 0x8000000000000000), (7, 0x8000000000000000), (8, 0x8000000000000000),
        (13, 0x8000000000000000), (18, 0x8000000000000000), (23, 0x8000000000000000),
        (4, 2), (9, 2), (14, 2), (19, 2), (24, 2)]) := by decide +kernel

/-- V-R3: lane L holds L + 1. -/
theorem test_rhopi : lanesAfter (Vector.ofFn fun L => BitVec.ofNat 64 (L.val + 1)) .rhopi
    = some #v[0x0000000000000001, 0x0000700000000000, 0x0000680000000000, 0x0000000002600000,
        0x0000000000064000, 0x0000000040000000, 0x0000000000A00000, 0x0000000000000058,
        0x0002200000000000, 0xE000000000000002, 0x0000000000000004, 0x0000000000000200,
        0x000000001C000000, 0x0000000000001400, 0x0000000000540000, 0x0000000028000000,
        0x0000006000000000, 0x0000000000003000, 0x0000000000090000, 0x1800000000000000,
        0xC000000000000000, 0x0480000000000000, 0x0000078000000000, 0x0000200000000000,
        0x0000000000000058] := by decide +kernel

/-- V-C2: row 0. -/
theorem test_chi_row : lanesAfter (sparse [(0, 0xF0F0F0F0F0F0F0F0), (1, 0xFF00FF00FF00FF00),
      (2, 0xFFFF0000FFFF0000), (4, 0x0123456789ABCDEF)]) .chi
    = some (sparse [(0, 0xF00FF0F0F00FF0F0), (1, 0xFF00FF00FF00FF00), (2, 0xFEDC45677654CDEF),
        (3, 0xF0D0B09070503010), (4, 0x0E234A6786ABC2EF)]) := by decide +kernel

/-- V-C3: row 3, where an update in place would give lane 19 = 0. -/
theorem test_chi_copy : lanesAfter (sparse [(15, -1), (17, -1), (18, -1), (19, -1)]) .chi
    = some (sparse [(17, -1), (18, -1), (19, -1)]) := by decide +kernel

/-- V-I3: IOTA 23 on the zero state, S[0] and S[1]. -/
theorem test_iota : (unitAfter (withUnit 30 zeroUnit) (.iota 23)).map (fun u => (u.S[0], u.S[1]))
    = some (0x80008008, 0x80000000) := by decide +kernel

/-- V-I3 under HIGH_FIRST. -/
theorem test_iota_highFirst :
    (unitAfter { withUnit 30 zeroUnit with params := { resultsWords := 30, wordOrder := .highFirst } } (.iota 23)).map
      (fun u => (u.S[0], u.S[1])) = some (0x80000000, 0x80008008) := by decide +kernel

/-- V-P2: ROUND 1 on the V-P1 state. -/
theorem test_round : lanesAfter (sparse [(0, 1)]) (.round 1)
    = some (sparse [(0, 0x8083), (1, 0x0000100000000000), (2, 0x8000), (3, 1), (4, 0x0000100000008000),
        (6, 0x0000200000200000), (8, 0x0000200000000000), (9, 0x200000), (10, 2), (11, 0x200), (13, 0x202),
        (15, 0x10000400), (17, 0x400), (18, 0x10000000), (20, 0x0000010000000000),
        (22, 0x0000010000000004), (24, 4)]) := by decide +kernel

/-! ## Hasher micro-ops (sections 2.7, 2.8) -/

/-- V-A2: ABSORB copies. -/
theorem test_absorb :
    (unitAfter (withUnit 30 { zeroUnit with
        S := Vector.replicate 50 0xFFFFFFFF, IN := Vector.replicate 8 0x0000FFFF }) .absorb).map
      (fun u => (u.S[0], u.S[7], u.S[8])) = some (0x0000FFFF, 0x0000FFFF, 0xFFFFFFFF) := by decide +kernel

/-- V-A6: CLEAR. -/
theorem test_clear :
    (unitAfter (withUnit 30 { zeroUnit with S := Vector.replicate 50 0xFFFFFFFF }) .clear).map (·.S)
      = some (Vector.replicate 50 0) := by decide +kernel

/-- V-A1 and rule R132: PAD flips bit 0 of S[8] and bit 31 of S[33]. -/
theorem test_pad :
    (unitAfter (withUnit 30 { zeroUnit with S := Vector.replicate 50 0x80000001 }) .pad).map (·.S)
      = some (((Vector.replicate 50 0x80000001).set 8 0x80000000).set 33 0x00000001) := by decide +kernel

/-- Rule R133: EXTRACT copies S[0..7]. -/
theorem test_extract :
    (unitAfter (withUnit 30 { zeroUnit with S := Vector.ofFn fun k => BitVec.ofNat 32 k.val })
      .extract).map (·.DIG) = some #v[0, 1, 2, 3, 4, 5, 6, 7] := by decide +kernel

/-! ## Driver micro-ops (sections 2.9 to 2.11) -/

/-- V-G2 and V-G1 on a dispatch lane: the jump to 9, and none. -/
theorem test_guard_lane :
    (upcsAfter (busyState 1 0) .guard, upcsAfter (busyState 2 0) .guard)
      = (some [(0, 5), (1, 9), (2, 6)], some [(0, 5), (1, 1), (2, 6)]) := by decide +kernel

/-- V-G7 and V-G8: an unsigned compare, and GUARD clears the flag too. -/
theorem test_guard_test :
    ((unitAfter { withUnit 30 { zeroUnit with laneIndex := 0x80000000 } with laneCount := 5 } .guard).map
        (·.inactive),
      (unitAfter { withUnit 30 { zeroUnit with laneIndex := 5, inactive := true } with
        laneCount := 0x80000000 } .guard).map (·.inactive)) = (some true, some false) := by decide +kernel

/-- V-N2: the carry into the high word. -/
theorem test_nonce_carry :
    (unitAfter { withUnit 30 { zeroUnit with laneIndex := 1 } with baseNonceLo := 0xFFFFFFFF } .nonce).map
      (fun u => (u.nonceLo, u.nonceHi)) = some (0, 1) := by decide +kernel

/-- V-N5 and V-N8: no carry at the edge, and the 64-bit wrap. -/
theorem test_nonce_edges :
    ((unitAfter { withUnit 30 { zeroUnit with laneIndex := 1 } with
        baseNonceLo := 0xFFFFFFFE, baseNonceHi := 7 } .nonce).map (fun u => (u.nonceLo, u.nonceHi)),
      (unitAfter { withUnit 30 { zeroUnit with laneIndex := 1 } with
        baseNonceLo := 0xFFFFFFFF, baseNonceHi := 0xFFFFFFFF } .nonce).map (fun u => (u.nonceLo, u.nonceHi)))
      = (some (0xFFFFFFFF, 7), some (0, 0)) := by decide +kernel

/-- The example of rule R154. -/
theorem test_build :
    (unitAfter (withUnit 30 { zeroUnit with
        nonceLo := 0xDEADBEEF, nonceHi := 0x01234567, IN := Vector.replicate 8 1 }) .build).map (·.IN)
      = some #v[0xDEADBEEF, 0x01234567, 0, 0, 0, 0, 0, 0] := by decide +kernel

/-- A test unit with a record to pack. -/
def packUnit (i : Word) (inactive : Bool) : LaneUnit :=
  { zeroUnit with
    nonceLo := 0xA, nonceHi := 0xB, DIG := #v[1, 2, 3, 4, 5, 6, 7, 8], laneIndex := i, inactive := inactive }

/-- RES and STATUS after a PACK on a machine of `n` result words. -/
def packAfter (n : Fin (2 ^ 32 + 1)) (u : LaneUnit) : Option (Memory × Word) :=
  match exec .pack (withUnit n u) with
  | .next t => some (t.res, t.statusWord)
  | _ => none

/-- V-K1: slot 2 is words 20 to 29. -/
theorem test_pack_slot : packAfter 30 (packUnit 2 false)
    = some ([(20, 0xA), (21, 0xB), (22, 1), (23, 2), (24, 3), (25, 4), (26, 5), (27, 6), (28, 7), (29, 8)], 0) := by
  decide +kernel

/-- V-K2, V-K3 and V-K4: out of bounds, inactive, and an address past 2^32. -/
theorem test_pack_bounds :
    [packAfter 29 (packUnit 2 false), packAfter 29 (packUnit 2 true),
      packAfter (Fin.last _) (packUnit 0x1999999A false)]
      = [some ([], 0x44), some ([], 0), some ([], 0x44)] := by decide +kernel

/-- V-HALT1 on a dispatch lane unit. -/
theorem test_halt_lane : upcsAfter (busyState 3 9) .halt = some [(0, 5), (2, 6)] := by decide +kernel

/-- V-HALT1 on the test unit: nothing changes. -/
theorem test_halt_test : unitAfter (withUnit 30 (packUnit 2 false)) .halt = some (packUnit 2 false) := by
  decide +kernel

/-! ## Host accesses (section 2.13) -/

/-- V-S4: START refused with Err(3). -/
theorem test_start_refused :
    statusAfter ({ withUnit 20 zeroUnit with launchWidth := 3, laneCount := 3 }.hostWriteReg 0x00 1)
      = some 0x34 := by decide +kernel

/-- V-S2 and program P4: START accepted, 10 * min(2, 3) = 20, two lane executions. -/
theorem test_start_accepted :
    statusAfter ({ withUnit 20 zeroUnit with launchWidth := 2, laneCount := 3 }.hostWriteReg 0x00 1)
      = some 0x01 := by decide +kernel

/-- V-S5: the first code is kept. -/
theorem test_first_code_kept :
    statusAfter ({ withUnit 20 zeroUnit with err := true, errCode := 3 }.hostWriteReg 0x04 0x1318)
      = some 0x34 := by decide +kernel

/-- V-S11: RO and reserved bits of a STATUS write are ignored. -/
theorem test_status_write :
    statusAfter ({ withUnit 20 zeroUnit with err := true, errCode := 3 }.hostWriteReg 0x01 0xFFFFFFFF)
      = some 0 := by decide +kernel

/-- V-S8: a host write while BUSY = 1 is dropped. -/
theorem test_write_busy : statusAfter ((busyState 3 0).hostWriteReg 0x0A 7) = some 0x15 := by decide +kernel

/-- V-S7: a RES read out of range, after a completed dispatch. -/
theorem test_res_read_out_of_range :
    (({ withUnit 20 zeroUnit with done := true }.hostReadRes 20).statusWord,
      ({ withUnit 20 zeroUnit with done := true }.hostReadRes 20).replies) = (0x46, [0]) := by
  decide +kernel

/-- Rules R35, R45: TEST_S[49] is at 0x71, TEST_IN[7] at 0x17, TEST_DIG[0] at 0x18; 0x72 is reserved. -/
theorem test_regAt : [0x71, 0x17, 0x18, 0x72, 0x07, 0x3F].map regAt
    = [.testS 49, .testIn 7, .testDig 0, .reserved, .reserved, .reserved] := by decide

/-! ## The step -/

/-- Rules R163, R194: the word placed is the micro-op the next step runs, as the first after reset. -/
theorem test_step_first :
    statusAfter (step (State.reset.withFetchWord 16 0x1318)) = some 0x24 := by decide +kernel

/-- Rule R160: with no lane execution left the controller completes. -/
theorem test_step_complete :
    statusAfter (step { busyState 3 0 with lanes := [] }) = some 0x02 := by decide +kernel

/-! ## Witnesses: for each statement with hypotheses, something that meets all of them together -/

/-- DecodeOfEncode: well-formed instructions, the round indices at both ends. -/
theorem test_witness_wellFormed :
    ∀ i ∈ [Instr.iota 0, .iota 23, .round 0, .round 23, .theta, .halt], i.wellFormed = true := by decide

/-- LegalWordsAreEncodings: legal words, the round indices at both ends. -/
theorem test_witness_legal :
    [0x1300, 0x1317, 0x1400, 0x1417].map decode = [.iota 0, .iota 23, .round 0, .round 23].map Decoded.legal := by decide

/-- RotateMovesBits and HalfRotateIsRotate: amounts and bits at both ends of their range. -/
theorem test_witness_rotate :
    ∀ s ∈ [0, 31, 32, 63], s ≤ 63 ∧ (rotl64 1 s).getLsbD s = true := by decide

/-- The statements about one micro-op: the test unit executes, and a dispatch lane unit does. -/
theorem test_witness_unit :
    (withUnit 30 (packUnit 2 false)).unit? = some (packUnit 2 false)
      ∧ (busyState 3 0).unit? = some { zeroUnit with laneIndex := 1 } := by decide +kernel

/-- IllFormedRoundIsIllegalUop: the round indices at both ends. -/
theorem test_witness_outOfRange : 24 ≤ (24 : BitVec 5).toNat ∧ 24 ≤ (31 : BitVec 5).toNat := by decide

/-- Lanes that are all different. -/
def countingLanes : Lanes := Vector.ofFn fun L => BitVec.ofNat 64 (0x100000001 * L.val + 1)

/-- PermuteIgnoresWordOrder: the same lanes stored under either order, on two test units. -/
theorem test_witness_wordOrder :
    (∀ L, lane .lowFirst (ofLanes .lowFirst countingLanes) L = lane .highFirst (ofLanes .highFirst countingLanes) L)
      ∧ (withUnit 30 { zeroUnit with S := ofLanes .lowFirst countingLanes }).unit?
          = some { zeroUnit with S := ofLanes .lowFirst countingLanes }
      ∧ ({ withUnit 30 { zeroUnit with S := ofLanes .highFirst countingLanes } with
            params := { resultsWords := 30, wordOrder := .highFirst } } : State).unit?
          = some { zeroUnit with S := ofLanes .highFirst countingLanes } := by decide +kernel

/-- NonceLaw: two units of one machine with different indices. -/
theorem test_witness_nonceLaw :
    ({ busyState 3 0 with running := .lane 0 } : State).unit?.map (fun u : LaneUnit => u.laneIndex) = some 0
      ∧ ({ busyState 3 0 with running := .lane 2 } : State).unit?.map (fun u : LaneUnit => u.laneIndex) = some 2 := by decide +kernel

/-- PackWritesItsSlot: an inactive unit, the last slot that fits, and the first that does not. -/
theorem test_witness_pack :
    (withUnit 30 (packUnit 2 true)).res.wf
      ∧ (withUnit 30 (packUnit 2 true)).unit? = some (packUnit 2 true) ∧ (packUnit 2 true).inactive = true
      ∧ (packUnit 2 false).inactive = false ∧ slotBase (packUnit 2 false).laneIndex + 10 = 30
      ∧ (withUnit 30 (packUnit 3 false)).running = .test
      ∧ (withUnit 30 (packUnit 3 false)).params.resultsWords.val < slotBase (packUnit 3 false).laneIndex + 10 := by
  decide +kernel

/-- PackOverflowOnLane: lane index 1 at PACK over a RES of 19 words. -/
theorem test_witness_packOverflow :
    ({ busyState 3 8 with params := { resultsWords := 19, wordOrder := .lowFirst } } : State).running = .lane 1
      ∧ ({ busyState 3 8 with params := { resultsWords := 19, wordOrder := .lowFirst } } : State).unit?
          = some (laneExec 1 8).unit
      ∧ (laneExec 1 8).unit.inactive = false ∧ 19 < slotBase (laneExec 1 8).unit.laneIndex + 10 := by
  decide +kernel

/-- HaltEndsLane: a live lane execution at HALT, and the test unit. -/
theorem test_witness_halt :
    (busyState 3 9).running = .lane 1 ∧ (busyState 3 9).lane? 1 = some (laneExec 1 9)
      ∧ State.reset.running = .test := by decide +kernel

/-- StatusReadLayout and the reads of reserved addresses: neither is ever UNSPECIFIED. -/
theorem test_witness_readable :
    Reg.status ∉ State.reset.unwritten ∧ Reg.reserved ∉ State.reset.unwritten := by decide

/-- BusyDropsHostWrites: BUSY = 1, and addresses other than STATUS's. -/
theorem test_witness_busy :
    (busyState 3 0).busy = true ∧ ∀ a ∈ [0x00, 0x02, 0xFF], a ≠ (0x01 : BitVec 8) := by decide

/-- ResOutOfRange: the first address out of range, while BUSY = 0. -/
theorem test_witness_outOfBounds :
    (withUnit 30 zeroUnit).params.resultsWords.val ≤ 30 ∧ (withUnit 30 zeroUnit).busy = false := by decide

/-- ResWriteThenRead: the last address in range, with a word in it and without. -/
theorem test_witness_resWrite :
    (withUnit 30 zeroUnit).busy = false ∧ (withUnit 30 zeroUnit).res.wf
      ∧ 29 < (withUnit 30 zeroUnit).params.resultsWords.val
      ∧ ({ withUnit 30 zeroUnit with res := [(29, 7)] } : State).res.read 29 = some 7
      ∧ (withUnit 30 zeroUnit).res.read 29 = none := by decide

/-- RacingReadIsOldOrNew: a word that a dispatch in flight has overwritten. -/
theorem test_witness_race :
    ({ busyState 3 0 with resAtStart := [(0, 7)], res := [(0, 8)] } : State).busy = true
      ∧ Memory.read [(0, 7)] 0 = some (7 : Word) ∧ Memory.read [(0, 8)] 0 = some (8 : Word)
      ∧ 0 < (busyState 3 0).params.resultsWords.val := by decide

/-- RegisterWriteThenRead: addresses at the ends of each clause's range. -/
theorem test_witness_readWrite :
    State.reset.busy = false
      ∧ ∀ a ∈ [0x02, 0x05, 0x08, 0x0F, 0x10, 0x17, 0x40, 0x71],
          a ∈ [0x02, 0x05, 0x08, 0x09, 0x0A, 0x0C, 0x0D, 0x0E, 0x0F]
            ∨ (0x10 ≤ (a : BitVec 8).toNat ∧ a.toNat ≤ 0x17) ∨ (0x40 ≤ a.toNat ∧ a.toNat ≤ 0x71) := by decide

/-- ReservedAndReadOnlyWritesIgnored: the ends of each clause's ranges, none under both clauses. -/
theorem test_witness_ignored :
    (∀ a ∈ [0x03, 0x06, 0x18, 0x21],
        (a ∈ [0x03, 0x06] ∨ (0x18 ≤ (a : BitVec 8).toNat ∧ a.toNat ≤ 0x21)) ∧ regAt a ≠ .reserved)
      ∧ ∀ a ∈ [0x07, 0x0B, 0x22, 0x3F, 0x72, 0xFF],
          (a ∈ [0x07, 0x0B] ∨ (0x22 ≤ (a : BitVec 8).toNat ∧ a.toNat ≤ 0x3F) ∨ 0x72 ≤ a.toNat)
            ∧ regAt a = .reserved := by decide

/-- RegisterReads: an UNSPECIFIED register, one for each other clause, and the ends of each window of `MapRow`. -/
theorem test_witness_reads :
    regAt 0x02 ∈ State.reset.unwritten ∧ regAt 0x71 ∈ State.reset.unwritten
      ∧ (∀ a ∈ [0x00, 0x03, 0x04, 0x06], regAt a ∉ State.reset.unwritten)
      ∧ (∀ a ∈ [0x02, 0x0F, 0x10, 0x17, 0x18, 0x1F, 0x20, 0x21, 0x40, 0x71],
          regAt a ∉ ({ State.reset with unwritten := [] } : State).unwritten)
      ∧ (0x10 : BitVec 8).toNat = 0x10 + (0 : Fin 8).val ∧ (0x17 : BitVec 8).toNat = 0x10 + (7 : Fin 8).val
      ∧ (0x18 : BitVec 8).toNat = 0x18 + (0 : Fin 8).val ∧ (0x1F : BitVec 8).toNat = 0x18 + (7 : Fin 8).val
      ∧ (0x40 : BitVec 8).toNat = 0x40 + (0 : Fin 50).val ∧ (0x71 : BitVec 8).toNat = 0x40 + (49 : Fin 50).val := by
  decide

/-- A machine of `n` result words about to start a dispatch of 3 lane executions over 3 candidates. -/
def readyState (n : Fin (2 ^ 32 + 1)) : State :=
  { withUnit n zeroUnit with launchWidth := 3, laneCount := 3, inbox := [.writeReg 0x00 1] }

/-- StartChecksThenLaunches: dropped while busy, no start, the largest machine refused, the smallest accepted. -/
theorem test_witness_start :
    (busyState 3 0).busy = true ∧ (0xFFFFFFFE : Word).getLsbD 0 = false ∧ (1 : Word).getLsbD 0 = true
      ∧ (readyState 29).busy = false
      ∧ (readyState 29).params.resultsWords.val < 10 * min (readyState 29).launchWidth.toNat (readyState 29).laneCount.toNat
      ∧ 10 * min (readyState 30).launchWidth.toNat (readyState 30).laneCount.toNat
          ≤ (readyState 30).params.resultsWords.val := by decide

/-- CompletionStep: every lane execution ended. -/
theorem test_witness_completion :
    ({ busyState 3 0 with lanes := [] } : State).busy = true ∧ ({ busyState 3 0 with lanes := [] } : State).inbox = [] := by
  decide

/-- TestUopStepRunsInstruction: a legal value and an illegal one as the next access. -/
theorem test_witness_testUop :
    (State.reset.withFetchWord 16 0x1500).busy = false
      ∧ (State.reset.withFetchWord 16 0x1500).inbox = .writeReg 0x04 0x1500 :: []
      ∧ decodeTestUop 0x1500 = .legal .permute ∧ ∀ i, decodeTestUop 0x00011500 ≠ .legal i := by
  refine ⟨by decide, by decide, by decide, fun i => ?_⟩
  rw [test_decode_upper]
  exact Decoded.noConfusion

/-- A dispatch in flight of one lane execution, at a given upc. -/
def oneLane (upc : BitVec 4) : State :=
  { withUnit 30 zeroUnit with busy := true, launchWidth := 1, laneCount := 1, lanes := [laneExec 0 upc] }

/-- LaneStepRunsRomInstruction: the one lane execution moves, at the first and the last ROM address. -/
theorem test_witness_laneStep :
    (oneLane 0).pick = some (.lane 0) ∧ (oneLane 0).lane? 0 = some (laneExec 0 0)
      ∧ microprogram[(0 : BitVec 4).toNat]? = some 0x3000 ∧ decode 0x3000 = .legal .guard
      ∧ (oneLane 9).pick = some (.lane 0) ∧ (oneLane 9).lane? 0 = some (laneExec 0 9)
      ∧ microprogram[(9 : BitVec 4).toNat]? = some 0x3F00 ∧ decode 0x3F00 = .legal .halt := by decide +kernel

/-- HostStepTakesNextAccess: idle with and without an access pending. -/
theorem test_witness_host :
    State.reset.busy = false ∧ State.reset.inbox = []
      ∧ (readyState 30).busy = false ∧ (readyState 30).inbox = .writeReg 0x00 1 :: [] := by decide

/-- A dispatch in flight of two lane executions, both at GUARD. -/
def twoLanes : State :=
  { withUnit 30 zeroUnit with
    busy := true, launchWidth := 2, laneCount := 2, lanes := [laneExec 0 0, laneExec 1 0] }

theorem test_twoLanes_inv : twoLanes.Inv := by
  refine ⟨by decide, by decide, by decide, by decide, by decide, by decide, by decide, by decide, fun _ => ?_⟩
  refine ⟨by decide, ?_, by decide, fun _ _ _ _ _ => rfl, fun i hi hun => absurd ?_ hun, fun _ _ => rfl⟩
  · intro l hl
    rcases List.mem_cons.1 hl with rfl | hl
    · constructor <;> decide
    · rcases List.mem_cons.1 hl with rfl | hl
      · constructor <;> decide
      · cases hl
  · have hi' : i < 2 := hi
    match i, hi' with
    | 0, _ => exact ⟨laneExec 0 0, by simp [twoLanes], by decide, by decide⟩
    | 1, _ => exact ⟨laneExec 1 0, by simp [twoLanes], by decide, by decide⟩

theorem test_oneLane_inv : (oneLane 0).Inv := by
  refine ⟨by decide, by decide, by decide, by decide, by decide, by decide, by decide, by decide, fun _ => ?_⟩
  refine ⟨by decide, ?_, by decide, fun _ _ _ _ _ => rfl, fun i hi hun => absurd ?_ hun, fun _ _ => rfl⟩
  · intro l hl
    rcases List.mem_cons.1 hl with rfl | hl
    · constructor <;> decide
    · cases hl
  · have hi' : i < 1 := hi
    match i, hi' with
    | 0, _ => exact ⟨laneExec 0 0, by simp [oneLane], by decide, by decide⟩

/-- StepKeepsInvariant, InvariantStateSteps, StepsKeepParameters, DispatchKeepsConfiguration: a step of a
dispatch in flight. -/
theorem test_witness_step :
    (oneLane 0).Inv ∧ (oneLane 0).busy = true
      ∧ ¬((oneLane 0).pick = some .host ∧ (oneLane 0).inbox.head? = some .reset)
      ∧ ∃ t, step (oneLane 0) = .next t :=
  ⟨test_oneLane_inv, by decide, by decide, _, rfl⟩

/-- LaneStepsRaiseNothing and LaneStepsCommute: two live lane executions. -/
theorem test_witness_lanes :
    twoLanes.Inv ∧ twoLanes.busy = true ∧ (0 : Word) ≠ 1
      ∧ twoLanes.lane? 0 = some (laneExec 0 0) ∧ twoLanes.lane? 1 = some (laneExec 1 0)
      ∧ ∃ t, twoLanes.laneStep 0 = .next t :=
  ⟨test_twoLanes_inv, by decide, by decide, by decide, by decide, _, rfl⟩

/-- DispatchInFlightCompletes: a dispatch in flight and no reset to come. -/
theorem test_witness_completes :
    twoLanes.Inv ∧ twoLanes.busy = true ∧ HostEvent.reset ∉ twoLanes.inbox :=
  ⟨test_twoLanes_inv, by decide, by decide⟩

/-- StartedDispatchDelivers: a START that fits exactly, as the only access. -/
theorem test_witness_delivers :
    (readyState 30).Inv ∧ (readyState 30).busy = false ∧ (readyState 30).inbox = [.writeReg 0x00 1]
      ∧ (1 : Word).getLsbD 0 = true ∧ 10 * (readyState 30).activeLanes ≤ (readyState 30).params.resultsWords.val := by
  refine ⟨?_, by decide, by decide, by decide, by decide⟩
  exact ⟨by decide, by decide, by decide, by decide, by decide, by decide, by decide, by decide,
    fun h => absurd h (by decide)⟩

/-- A machine out of reset whose UNSPECIFIED LANE_COUNT holds `v`, about to read it. -/
def unspecifiedCount (v : Word) : State := { State.reset with laneCount := v, inbox := [.readReg 0x0A] }

/-- UnspecifiedValuesDoNotMatter: two values of an UNSPECIFIED register, and a step that reads none. -/
theorem test_witness_unspecified :
    AgreeOnWritten (unspecifiedCount 5) (unspecifiedCount 7) ∧ (unspecifiedCount 5).readsUnspecified = false
      ∧ (∃ t, step (unspecifiedCount 5) = .next t) ∧ ∃ t, strictStep (unspecifiedCount 5) = .next t := by
  refine ⟨⟨rfl, fun r hr => ?_, rfl, rfl⟩, by decide, ⟨_, rfl⟩, _, rfl⟩
  cases r <;> first | rfl | exact absurd (by decide) hr

/-- UnspecifiedValuesDoNotMatter, where `strictStep` faults: a START, a TEST_UOP write of ABSORB and a lane execution at
NONCE, each about to read an UNSPECIFIED register. -/
theorem test_witness_strict :
    State.reset.busy = false ∧ (1 : Word).getLsbD 0 = true ∧ Reg.launchWidth ∈ State.reset.unwritten
      ∧ decodeTestUop 0x2100 = .legal .absorb ∧ Reg.testIn 3 ∈ State.reset.unwritten
      ∧ Instr.reads State.reset.test.inactive .absorb (.testIn 3) = true
      ∧ (oneLane 1).pick = some (.lane 0) ∧ (oneLane 1).lane? 0 = some (laneExec 0 1)
      ∧ microprogram[(1 : BitVec 4).toNat]? = some 0x3100 ∧ decode 0x3100 = .legal .nonce
      ∧ Reg.baseNonceLo ∈ (oneLane 1).unwritten ∧ Reg.isLaneConfig .baseNonceLo = true
      ∧ Instr.reads false .nonce .baseNonceLo = true := by decide +kernel

/-- Rules R130 and R213: CLEAR reads nothing, so it runs on a test unit that nothing has written; ABSORB reads IN. -/
theorem test_strict :
    (State.reset.withFetchWord 16 0x2000).readsUnspecified = false
      ∧ strictStep (State.reset.withFetchWord 16 0x2100) = .fault .unspecifiedRead := by
  exact ⟨by decide, if_pos (by decide)⟩

/-! ## The two long evaluations -/

/-- V-P3: PERMUTE on the zero state, lanes 0 and 24. -/
theorem test_permute : (lanesAfter (sparse []) .permute).map (fun A => (A[0], A[24]))
    = some (0xF1258F7940E1DDE7, 0xEAF1FF7B5CECA249) := by decide +kernel

/-- V-H5: HASH of nonce 0x01234567DEADBEEF, from a state that CLEAR must wipe. -/
theorem test_hash :
    (unitAfter (withUnit 30 { zeroUnit with
        S := Vector.replicate 50 0xFFFFFFFF, IN := #v[0xDEADBEEF, 0x01234567, 0, 0, 0, 0, 0, 0] }) .hash).map
      (·.DIG) = some #v[0x552CDED8, 0xB46092AE, 0x59E5D648, 0x615457B6, 0x815DFC7A, 0x441BC32F, 0x02DA58C7,
        0x0811EDC6] := by decide +kernel

end Sys2Proof.Tests
end

section
/-! Which words decode (rule R74): one lemma per way the decoder reads RND, one for the opcode map, one for Z. -/
namespace Sys2Proof

/-- The sixteen values of OPC in rule R73. -/
def definedOpcodes : List (BitVec 8) :=
  [0x10, 0x11, 0x12, 0x13, 0x14, 0x15, 0x20, 0x21, 0x22, 0x23, 0x24, 0x30, 0x31, 0x32, 0x33, 0x3F]

/-- Rule R74, clause 3: RND is a round index in IOTA and ROUND, 0 in every other micro-op. -/
def rndAllowed (opc : BitVec 8) (rnd : BitVec 5) : Prop :=
  if opc = 0x13 ∨ opc = 0x14 then rnd.toNat ≤ 23 else rnd = 0

theorem exists_decodePlain_legal_iff (i : Instr) (rnd : BitVec 5) :
    (∃ j, decodePlain i rnd = .legal j) ↔ rnd = 0 := by
  unfold decodePlain
  split <;> simp only [*, reduceCtorEq, Decoded.legal.injEq, exists_eq', exists_false]

theorem exists_decodeRound_legal_iff (i : BitVec 5 → Instr) (rnd : BitVec 5) :
    (∃ j, decodeRound i rnd = .legal j) ↔ rnd.toNat ≤ 23 := by
  rw [← Nat.lt_succ_iff]
  by_cases h : rnd.toNat < 24 <;> simp [decodeRound, roundInRange, h]

/-- The opcode map row by row: IOTA and ROUND read RND as a round index, the fourteen other rows as 0, and an opcode
without a row is reserved (rule R76). -/
theorem exists_decodeOpc_legal_iff (opc : BitVec 8) (rnd : BitVec 5) :
    (∃ i, decodeOpc opc rnd = .legal i) ↔ opc ∈ definedOpcodes ∧ rndAllowed opc rnd := by
  unfold decodeOpc
  split
  -- the rows of IOTA and ROUND
  case h_4 | h_5 => simp [exists_decodeRound_legal_iff, definedOpcodes, rndAllowed]
  -- no row
  case h_17 => simp_all [definedOpcodes]
  -- the rows without operand
  all_goals simp [exists_decodePlain_legal_iff, definedOpcodes, rndAllowed]

theorem exists_decode_legal_iff (w : UopWord) :
    (∃ i, decode w = .legal i) ↔ zField w = 0 ∧ ∃ i, decodeOpc (opcField w) (rndField w) = .legal i := by
  unfold decode
  split <;> simp only [*, reduceCtorEq, exists_false, true_and, false_and]

/-- Settles O3: Z is checked first, then the opcode map, then RND by the opcode's row. -/
theorem wordLegalExactlyWhen : Obligations.WordLegalExactlyWhen := by
  intro w
  rw [exists_decode_legal_iff, exists_decodeOpc_legal_iff]
  exact and_left_comm

end Sys2Proof
end

section
/-! The rotate bit by bit (rule R100), and the datapath's rotate on 32-bit halves as the 64-bit one (rule R101). -/
namespace Sys2Proof.Machine

/-- A pair of shifts by amounts that add up to the width, at bit k: the s bits shifted in come from the top of `y`. -/
theorem getLsbD_shiftPair {w : Nat} (x y : BitVec w) {s k : Nat} (hs : s < w) (hk : k < w) :
    ((x <<< s) ||| (y >>> (w - s))).getLsbD k = if k < s then y.getLsbD (k + w - s) else x.getLsbD (k - s) := by
  rw [BitVec.getLsbD_or, BitVec.getLsbD_shiftLeft, BitVec.getLsbD_ushiftRight]
  split
  · rw [show w - s + k = k + w - s by omega]
    simp [*]
  · rw [BitVec.getLsbD_of_ge y _ (by omega)]
    simp [*]

theorem getLsbD_rotl64 (v : LaneWord) {s k : Nat} (hs : s ≤ 63) (hk : k ≤ 63) :
    (rotl64 v s).getLsbD k = v.getLsbD ((k + 64 - s) % 64) := by
  by_cases h0 : s = 0
  · rw [rotl64, if_pos h0, h0, Nat.sub_zero, Nat.add_mod_right, Nat.mod_eq_of_lt (by omega)]
  · rw [rotl64, if_neg h0, getLsbD_shiftPair v v (by omega) (by omega)]
    split
    · rw [Nat.mod_eq_of_lt (by omega)]
    · rw [show (k + 64 - s) % 64 = k - s by omega]

/-- Settles O6, bit k below s and from s on. -/
theorem rotateMovesBits : Obligations.RotateMovesBits := fun v _ _ hs hk => getLsbD_rotl64 v hs hk

/-- The 32-bit shifts of rule R101 rotate `high : low` by an amount below 32. -/
theorem joinHalves_rotlHalfShift (h l : Word) {s : Nat} (hs : s < 32) :
    joinHalves (rotlHalfShift h l s).1 (rotlHalfShift h l s).2 = rotl64 (joinHalves h l) s := by
  by_cases h0 : s = 0
  · rw [rotlHalfShift, rotl64, if_pos h0, if_pos h0]
  refine BitVec.eq_of_getLsbD_eq fun k hk => ?_
  rw [getLsbD_rotl64 _ (by omega) (by omega), getLsbD_joinHalves, getLsbD_joinHalves]
  simp only [rotlHalfShift, if_neg h0]
  by_cases hlow : k < 32
  · rw [if_pos hlow, getLsbD_shiftPair l h hs hlow]
    split
    · rw [if_neg (by omega), show (k + 64 - s) % 64 - 32 = k + 32 - s by omega]
    · rw [if_pos (by omega), show (k + 64 - s) % 64 = k - s by omega]
  · rw [if_neg hlow, getLsbD_shiftPair h l hs (by omega)]
    split
    · rw [if_pos (by omega), show (k + 64 - s) % 64 = k - 32 + 32 - s by omega]
    · rw [if_neg (by omega), show (k + 64 - s) % 64 - 32 = k - 32 - s by omega]

/-- Swapping the halves is a rotate by 32. -/
theorem rotl64_joinHalves_swap (h l : Word) {s : Nat} (h32 : 32 ≤ s) (hs : s ≤ 63) :
    rotl64 (joinHalves h l) s = rotl64 (joinHalves l h) (s - 32) := by
  refine BitVec.eq_of_getLsbD_eq fun k hk => ?_
  rw [getLsbD_rotl64 _ hs (by omega), getLsbD_rotl64 _ (by omega) (by omega), getLsbD_joinHalves, getLsbD_joinHalves]
  split
  · rw [if_neg (by omega), show (k + 64 - (s - 32)) % 64 - 32 = (k + 64 - s) % 64 by omega]
  · rw [if_pos (by omega), show (k + 64 - (s - 32)) % 64 = (k + 64 - s) % 64 - 32 by omega]

theorem datapathRotl_eq_rotl64 (v : LaneWord) {s : Nat} (hs : s ≤ 63) : datapathRotl v s = rotl64 v s := by
  unfold datapathRotl rotlHalf
  split
  · rw [joinHalves_rotlHalfShift _ _ (by omega), ← rotl64_joinHalves_swap _ _ ‹_› hs, joinHalves_halves]
  · rw [joinHalves_rotlHalfShift _ _ (by omega), joinHalves_halves]

end Sys2Proof.Machine
end

section
/-! The steps of the permutation lane by lane (rules R103 to R106). -/
namespace Sys2Proof.Machine

theorem columnParity_toLanes (wo : WordOrder) (S : Vector Word 50) (x : Fin 5) :
    columnParity (toLanes wo S) x = parityOf wo S x := by
  simp only [columnParity, parityOf, laneXY, get_toLanes]

theorem get_thetaLanes (A : Lanes) (x y : Fin 5) :
    (thetaLanes A).get (laneAt x y)
      = A.get (laneAt x y) ^^^ (columnParity A (x + 4) ^^^ rotl64 (columnParity A (x + 1)) 1) := by
  simp only [thetaLanes, get_ofFn, xOf_laneAt, datapathRotl_eq_rotl64 _ (show 1 ≤ 63 by decide)]

theorem get_chiLanes (A : Lanes) (x y : Fin 5) :
    (chiLanes A).get (laneAt x y)
      = A.get (laneAt x y) ^^^ (~~~A.get (laneAt (x + 1) y) &&& A.get (laneAt (x + 2) y)) := by
  simp only [chiLanes, get_ofFn, xOf_laneAt, yOf_laneAt]

theorem get_iotaLanes (r : Fin 24) (A : Lanes) (L : Fin 25) :
    (iotaLanes r A).get L = if L = 0 then A.get 0 ^^^ roundConstant r else A.get L := by
  rw [iotaLanes, get_set]
  simp only [Fin.ext_iff, eq_comm, Fin.val_zero]

/-- Writing one lane changes that lane and no other. -/
theorem get_set_eq_update (A : Lanes) (L : Fin 25) (v : LaneWord) :
    (A.set L v).get = Function.update A.get L v := by
  funext M
  rw [get_set, Function.update_apply]
  simp only [Fin.ext_iff, eq_comm]

theorem rotAmount_le : ∀ i : Fin 24, rotAmount i ≤ 63 := by decide

/-- What is carried, and the lanes, before step `i` of the Rho-Pi walk (rule R104). -/
def rhoPiWalk (A : Lanes) (i : Nat) : LaneWord × Lanes := ((List.finRange 24).take i).foldl rhoPiStep (A.get 1, A)

theorem rhoPiWalk_succ (A : Lanes) (i : Fin 24) : rhoPiWalk A (i.val + 1) = rhoPiStep (rhoPiWalk A i.val) i := by
  rw [rhoPiWalk, List.take_add_one]
  simp [rhoPiWalk, List.foldl_append]

theorem rhoPiLanes_eq_rhoPiWalk (A : Lanes) : rhoPiLanes A = (rhoPiWalk A 24).2 := by
  rw [rhoPiLanes, rhoPiWalk, List.take_of_length_le (by rw [List.length_finRange])]

/-- A step of the walk as rule R104 says it, with the 64-bit rotate. -/
theorem rhoPiWalk_step (A : Lanes) (i : Fin 24) :
    (rhoPiWalk A (i.val + 1)).1 = (rhoPiWalk A i.val).2.get (targetLane i)
      ∧ (rhoPiWalk A (i.val + 1)).2.get = Function.update (rhoPiWalk A i.val).2.get (targetLane i)
          (rotl64 (rhoPiWalk A i.val).1 (rotAmount i)) := by
  rw [rhoPiWalk_succ, rhoPiStep, datapathRotl_eq_rotl64 _ (rotAmount_le i)]
  exact ⟨rfl, get_set_eq_update _ _ _⟩

end Sys2Proof.Machine
end

section
/-! The permutation micro-ops: each puts S through a function of its lanes, and a run of them puts S through one
function after the other (rules R102 to R108). -/
namespace Sys2Proof.Machine

/-- The micro-op puts S through `f`, writing the words `p` of S, and does nothing else (rule R102). -/
def MapsLanes (i : Instr) (f : Lanes → Lanes) (p : Nat → Bool) : Prop := ∀ s, exec i s = s.permuteUnit f p

theorem mapsLanes_theta : MapsLanes .theta thetaLanes fun _ => true := fun _ => rfl
theorem mapsLanes_rhopi : MapsLanes .rhopi rhoPiLanes fun k => decide (2 ≤ k) := fun _ => rfl
theorem mapsLanes_chi : MapsLanes .chi chiLanes fun _ => true := fun _ => rfl
theorem mapsLanes_permute : MapsLanes .permute permuteLanes fun _ => true := fun _ => rfl
theorem mapsLanes_iota (r : Fin 24) : MapsLanes (.iota (BitVec.ofNat 5 r.val)) (iotaLanes r) fun k => decide (k < 2) :=
  fun s => s.permuteUnitRound_ofNat r _ _
theorem mapsLanes_round (r : Fin 24) : MapsLanes (.round (BitVec.ofNat 5 r.val)) (roundLanes r) fun _ => true :=
  fun s => s.permuteUnitRound_ofNat r _ _

theorem MapsLanes.unitStep {i : Instr} {f : Lanes → Lanes} {p : Nat → Bool} (h : MapsLanes i f p) {s : State}
    {u : LaneUnit} (hu : s.unit? = some u) :
    ∃ t, exec i s = .next t
      ∧ UnitStep s t { u with S := ofLanes s.params.wordOrder (f (toLanes s.params.wordOrder u.S)) }
          (Reg.isS p) nextUpc := by
  rw [h s]
  exact State.permuteUnit_unitStep hu f p

theorem UnitStep.params_eq {s t : State} {u : LaneUnit} {p : Reg → Bool} {g : BitVec 4 → BitVec 4}
    (h : UnitStep s t u p g) : t.params = s.params := by
  rw [h.rest]

/-- Micro-ops that each put S through a function of its lanes put it, one after the other, through these functions in
the same order. -/
theorem State.exists_runs_of_mapsLanes {ops : List Instr} {fs : List (Lanes → Lanes)}
    (h : List.Forall₂ (fun i f => ∃ p, MapsLanes i f p) ops fs) {s : State} {u : LaneUnit} (hu : s.unit? = some u) :
    ∃ m, State.Runs ops s m
      ∧ m.unit? = some { u with
          S := ofLanes s.params.wordOrder (fs.foldl (fun A f => f A) (toLanes s.params.wordOrder u.S)) } := by
  induction h generalizing s u with
  | nil => exact ⟨s, rfl, by rw [List.foldl_nil, ofLanes_toLanes, hu]⟩
  | cons hi _ ih =>
    obtain ⟨_, hi⟩ := hi
    obtain ⟨t, ht, hst⟩ := hi.unitStep hu
    obtain ⟨m, hm, hmu⟩ := ih hst.unit
    rw [hst.params_eq, toLanes_ofLanes] at hmu
    refine ⟨m, ⟨t, ht, hm⟩, ?_⟩
    rw [List.foldl_cons]
    exact hmu

/-- PERMUTE's rounds as the list of functions that the 24 ROUND micro-ops put S through. -/
theorem permuteLanes_eq_foldl (A : Lanes) :
    permuteLanes A = ((List.finRange 24).map roundLanes).foldl (fun B f => f B) A := by
  rw [List.foldl_map, permuteLanes]

/-- A micro-op that puts S through what a run of others puts it through leaves in S, in one step, what the run
leaves there. -/
theorem MapsLanes.unitStep_and_runs {i : Instr} {f : Lanes → Lanes} {p : Nat → Bool} (h : MapsLanes i f p)
    {ops : List Instr} {fs : List (Lanes → Lanes)} (hops : List.Forall₂ (fun i f => ∃ p, MapsLanes i f p) ops fs)
    (hf : ∀ A, f A = fs.foldl (fun B f => f B) A) {s : State} {u : LaneUnit} (hu : s.unit? = some u) :
    ∃ t m S', exec i s = .next t ∧ UnitStep s t { u with S := S' } (Reg.isS p) nextUpc
      ∧ State.Runs ops s m ∧ m.unit? = some { u with S := S' } := by
  obtain ⟨t, ht, hst⟩ := h.unitStep hu
  obtain ⟨m, hm, hmu⟩ := State.exists_runs_of_mapsLanes hops hu
  rw [← hf] at hmu
  exact ⟨t, m, _, ht, hst, hm, hmu⟩

/-- Settles O8: lane (x, y) of `thetaLanes`, with the datapath's rotate by 1 as the 64-bit one. -/
theorem thetaXorsColumnParities : Obligations.ThetaXorsColumnParities := by
  refine ⟨decode_theta, fun s u hu => ?_⟩
  obtain ⟨t, ht, hst⟩ := mapsLanes_theta.unitStep hu
  refine ⟨t, _, ht, hst, fun x y => ?_⟩
  rw [laneXY, lane_ofLanes, get_thetaLanes, columnParity_toLanes, columnParity_toLanes, get_toLanes, laneXY]

/-- Settles O9: the carried values and the lanes are those of `rhoPiWalk`. -/
theorem rhopiWalksTheTable : Obligations.RhopiWalksTheTable := by
  refine ⟨decode_rhopi, fun s u hu => ?_⟩
  obtain ⟨t, ht, hst⟩ := mapsLanes_rhopi.unitStep hu
  refine ⟨t, _, ht, hst, fun i => (rhoPiWalk (toLanes s.params.wordOrder u.S) i).1,
    fun i => (rhoPiWalk (toLanes s.params.wordOrder u.S) i).2.get, get_toLanes _ _ _, funext (get_toLanes _ _),
    rhoPiWalk_step _, funext fun L => ?_⟩
  rw [lane_ofLanes, rhoPiLanes_eq_rhoPiWalk]

/-- Settles O11: lane (x, y) of `chiLanes`, every term read from the old lanes. -/
theorem chiMixesRows : Obligations.ChiMixesRows := by
  refine ⟨decode_chi, fun s u hu => ?_⟩
  obtain ⟨t, ht, hst⟩ := mapsLanes_chi.unitStep hu
  refine ⟨t, _, ht, hst, fun x y => ?_⟩
  simp only [laneXY, lane_ofLanes, get_chiLanes, get_toLanes]

/-- Settles O12: an index below 24 picks its row of the table, and `iotaLanes` sets lane 0 alone. -/
theorem iotaXorsRoundConstant : Obligations.IotaXorsRoundConstant := by
  refine ⟨by decide, fun s u r hu => ?_⟩
  obtain ⟨t, ht, hst⟩ := (mapsLanes_iota r).unitStep hu
  refine ⟨t, _, ht, hst, fun L => ?_⟩
  rw [lane_ofLanes, get_iotaLanes, get_toLanes, get_toLanes]

/-- Settles O13: `roundLanes` is the four steps' functions one after the other. -/
theorem roundIsItsFourSteps : Obligations.RoundIsItsFourSteps := by
  refine ⟨by decide, fun s u r hu => ?_⟩
  have hops : List.Forall₂ (fun i f => ∃ p, MapsLanes i f p) [.theta, .rhopi, .chi, .iota (BitVec.ofNat 5 r.val)]
      [thetaLanes, rhoPiLanes, chiLanes, iotaLanes r] :=
    .cons ⟨_, mapsLanes_theta⟩ (.cons ⟨_, mapsLanes_rhopi⟩ (.cons ⟨_, mapsLanes_chi⟩
      (.cons ⟨_, mapsLanes_iota r⟩ .nil)))
  exact (mapsLanes_round r).unitStep_and_runs hops (fun _ => rfl) hu

/-- Settles O14: `permuteLanes` is the 24 rounds' functions one after the other. -/
theorem permuteIsTwentyFourRounds : Obligations.PermuteIsTwentyFourRounds := by
  refine ⟨decode_permute, fun s u hu => ?_⟩
  have hops : List.Forall₂ (fun i f => ∃ p, MapsLanes i f p)
      ((List.finRange 24).map fun r => .round (BitVec.ofNat 5 r.val)) ((List.finRange 24).map roundLanes) := by
    rw [List.forall₂_map_left_iff, List.forall₂_map_right_iff, List.forall₂_same]
    exact fun r _ => ⟨_, mapsLanes_round r⟩
  rw [← List.map_coe_finRange_eq_range, List.map_map]
  exact mapsLanes_permute.unitStep_and_runs hops permuteLanes_eq_foldl hu

end Sys2Proof.Machine
end

section
/-! The micro-ops that put their lane unit through a function of its registers (rules R102, R151), one by one and in a
run. -/
namespace Sys2Proof.Machine

/-- The micro-op puts its lane unit through `f`, keeping LANE_INDEX and writing the registers `p`. -/
structure MapsUnit (i : Instr) (f : WordOrder → LaneUnit → LaneUnit) (p : Reg → Bool) : Prop where
  exec_eq : ∀ s, exec i s = s.updateUnit (f s.params.wordOrder) p
  laneIndex : ∀ wo u, (f wo u).laneIndex = u.laneIndex

theorem MapsLanes.mapsUnit {i : Instr} {f : Lanes → Lanes} {p : Nat → Bool} (h : MapsLanes i f p) :
    MapsUnit i (fun wo u => u.mapLanes wo f) (Reg.isS p) :=
  ⟨h, fun wo u => u.mapLanes_laneIndex wo f⟩

theorem mapsUnit_clear : MapsUnit .clear (fun _ => LaneUnit.clear) (Reg.isS fun _ => true) :=
  ⟨fun _ => rfl, fun _ => LaneUnit.clear_laneIndex⟩
theorem mapsUnit_absorb : MapsUnit .absorb (fun _ => LaneUnit.absorb) (Reg.isS fun k => decide (k < 8)) :=
  ⟨fun _ => rfl, fun _ => LaneUnit.absorb_laneIndex⟩
theorem mapsUnit_pad : MapsUnit .pad (fun _ => LaneUnit.pad) (Reg.isS fun k => k == 8 || k == 33) :=
  ⟨fun _ => rfl, fun _ => LaneUnit.pad_laneIndex⟩
theorem mapsUnit_permute : MapsUnit .permute LaneUnit.permute (Reg.isS fun _ => true) := mapsLanes_permute.mapsUnit
theorem mapsUnit_extract : MapsUnit .extract (fun _ => LaneUnit.extract) Reg.isDig :=
  ⟨fun _ => rfl, fun _ => LaneUnit.extract_laneIndex⟩
theorem mapsUnit_hash : MapsUnit .hash LaneUnit.hash fun r => r.isS (fun _ => true) || r.isDig :=
  ⟨fun _ => rfl, fun wo u => u.hash_laneIndex wo⟩

theorem MapsUnit.unitStep {i : Instr} {f : WordOrder → LaneUnit → LaneUnit} {p : Reg → Bool} (h : MapsUnit i f p)
    {s : State} {u : LaneUnit} (hu : s.unit? = some u) :
    ∃ t, exec i s = .next t ∧ UnitStep s t (f s.params.wordOrder u) p nextUpc := by
  rw [h.exec_eq s]
  exact State.updateUnit_unitStep hu (h.laneIndex _ u)

/-- Micro-ops that each put their lane unit through a function put it, one after the other, through these functions
in the same order. -/
theorem State.exists_runs_of_mapsUnit {ops : List Instr} {fs : List (WordOrder → LaneUnit → LaneUnit)}
    (h : List.Forall₂ (fun i f => ∃ p, MapsUnit i f p) ops fs) {s : State} {u : LaneUnit} (hu : s.unit? = some u) :
    ∃ m, State.Runs ops s m ∧ m.unit? = some (fs.foldl (fun v f => f s.params.wordOrder v) u) := by
  induction h generalizing s u with
  | nil => exact ⟨s, rfl, hu⟩
  | cons hi _ ih =>
    obtain ⟨_, hi⟩ := hi
    obtain ⟨t, ht, hst⟩ := hi.unitStep hu
    obtain ⟨m, hm, hmu⟩ := ih hst.unit
    rw [hst.params_eq] at hmu
    exact ⟨m, ⟨t, ht, hm⟩, hmu⟩

end Sys2Proof.Machine
end

section
/-! The hasher micro-ops (rules R130 to R134): the words of S after ABSORB and PAD, and what HASH leaves alone. -/
namespace Sys2Proof.Machine

variable (u : LaneUnit)

theorem LaneUnit.get_absorb_leadingWord (k : Fin 8) : u.absorb.S.get (leadingWord k) = u.IN.get k := by
  rw [LaneUnit.absorb_S, get_ofFn]
  exact dif_pos k.isLt

theorem LaneUnit.get_absorb_of_le {k : Fin 50} (hk : 8 ≤ k.val) : u.absorb.S.get k = u.S.get k := by
  rw [LaneUnit.absorb_S, get_ofFn]
  exact dif_neg (Nat.not_lt.mpr hk)

/-- A word of S after PAD: its two words are apart, so neither XOR sees the other. -/
theorem LaneUnit.get_pad (k : Fin 50) :
    u.pad.S.get k = if k = 8 then u.S.get k ^^^ 0x00000001
      else if k = 33 then u.S.get k ^^^ 0x80000000 else u.S.get k := by
  rw [LaneUnit.pad_S, get_set, get_set]
  by_cases h8 : k = 8
  · subst h8; rfl
  by_cases h33 : k = 33
  · subst h33; rfl
  rw [if_neg h8, if_neg h33, if_neg fun h => h33 (Fin.ext h.symm), if_neg fun h => h8 (Fin.ext h.symm)]

theorem LaneUnit.hash_eq (wo : WordOrder) :
    u.hash wo = { u with S := (u.hash wo).S, DIG := (u.hash wo).DIG } :=
  LaneUnit.ext_registers rfl (u.hash_IN wo) rfl (u.hash_nonceLo wo) (u.hash_nonceHi wo) (u.hash_laneIndex wo)
    (u.hash_inactive wo)

end Sys2Proof.Machine
end

section
/-! The statements about the hasher micro-ops. -/
namespace Sys2Proof.Machine

/-- Settles O17: every word of `LaneUnit.clear`'s S is the same 0. -/
theorem clearZeroesState : Obligations.ClearZeroesState := by
  refine ⟨decode_clear, fun s u hu => ?_⟩
  obtain ⟨t, ht, hst⟩ := mapsUnit_clear.unitStep hu
  exact ⟨t, _, ht, hst, get_replicate 0⟩

/-- Settles O18: a word of S after ABSORB is IN's below 8 and the old one from 8 on. -/
theorem absorbCopiesInput : Obligations.AbsorbCopiesInput := by
  refine ⟨decode_absorb, fun s u hu => ?_⟩
  obtain ⟨t, ht, hst⟩ := mapsUnit_absorb.unitStep hu
  exact ⟨t, _, ht, hst, u.get_absorb_leadingWord, fun _ => u.get_absorb_of_le⟩

/-- Settles O19: the words of S after PAD, as `LaneUnit.get_pad` gives them. -/
theorem padFlipsTwoBits : Obligations.PadFlipsTwoBits := by
  refine ⟨decode_pad, fun s u hu => ?_⟩
  obtain ⟨t, ht, hst⟩ := mapsUnit_pad.unitStep hu
  exact ⟨t, _, ht, hst, u.get_pad⟩

/-- Settles O20: DIG after EXTRACT is built from the leading words of S. -/
theorem extractCopiesDigest : Obligations.ExtractCopiesDigest := by
  refine ⟨decode_extract, fun s u hu => ?_⟩
  obtain ⟨t, ht, hst⟩ := mapsUnit_extract.unitStep hu
  exact ⟨t, _, ht, hst, get_ofFn _⟩

/-- Settles O21: `LaneUnit.hash` is the five micro-ops' functions one after the other, and it changes S and DIG
only. -/
theorem hashIsItsFiveSteps : Obligations.HashIsItsFiveSteps := by
  refine ⟨decode_hash, fun s u hu => ?_⟩
  have hops : List.Forall₂ (fun i f => ∃ p, MapsUnit i f p) [.clear, .absorb, .pad, .permute, .extract]
      [fun _ => LaneUnit.clear, fun _ => LaneUnit.absorb, fun _ => LaneUnit.pad, LaneUnit.permute,
        fun _ => LaneUnit.extract] :=
    .cons ⟨_, mapsUnit_clear⟩ (.cons ⟨_, mapsUnit_absorb⟩ (.cons ⟨_, mapsUnit_pad⟩
      (.cons ⟨_, mapsUnit_permute⟩ (.cons ⟨_, mapsUnit_extract⟩ .nil))))
  obtain ⟨t, ht, hst⟩ := mapsUnit_hash.unitStep hu
  obtain ⟨m, hm, hmu⟩ := State.exists_runs_of_mapsUnit hops hu
  change m.unit? = some (u.hash s.params.wordOrder) at hmu
  rw [u.hash_eq s.params.wordOrder] at hst hmu
  exact ⟨t, m, _, _, ht, hst, hm, hmu⟩

end Sys2Proof.Machine
end

section
/-! The driver micro-ops (rules R152 to R156): what GUARD's and NONCE's compares say of numbers, IN after BUILD, and
each case of PACK and HALT as a function of the state. -/
namespace Sys2Proof.Machine

theorem guardFlag_eq_decide_toNat (laneIndex laneCount : Word) :
    guardFlag laneIndex laneCount = decide (laneCount.toNat ≤ laneIndex.toNat) := rfl

theorem nonceHigh_eq_ite_toNat (baseLo baseHi index : Word) :
    nonceHigh baseLo baseHi index
      = if (nonceLow baseLo index).toNat < baseLo.toNat then baseHi + 1 else baseHi := by
  simp only [nonceHigh, addCarry, decide_eq_true_eq, BitVec.lt_def]

theorem mapsUnit_build : MapsUnit .build (fun _ => LaneUnit.build) Reg.isIn :=
  ⟨fun _ => rfl, fun _ => LaneUnit.build_laneIndex⟩

theorem LaneUnit.get_build (u : LaneUnit) (k : Fin 8) :
    u.build.IN.get k = if k = 0 then u.nonceLo else if k = 1 then u.nonceHi else 0 := by
  rw [LaneUnit.build_IN]
  fin_cases k <;> rfl

theorem State.advance_of_test {s : State} (hr : s.running = .test) : s.advance = s := by
  simp only [State.advance, hr]

section Pack

variable {s : State} {u : LaneUnit}

theorem State.packRecord_of_fits (hfit : slotBase u.laneIndex + 10 ≤ s.params.resultsWords.val) :
    s.packRecord u = { s with res := Memory.writeWords s.res (slotBase u.laneIndex) u.record } := if_pos hfit

theorem State.packRecord_of_overflow (hover : s.params.resultsWords.val < slotBase u.laneIndex + 10) :
    s.packRecord u = s.raise errResultsOutOfBounds := if_neg (Nat.not_le.mpr hover)

theorem exec_pack_of_unit (hu : s.unit? = some u) :
    exec .pack s = .next (if u.inactive then s else s.packRecord u).advance := State.onUnit_of_unit hu _

/-- PACK writes RES and then moves on: its one step starts from the state with the new RES. -/
theorem State.advance_unitStep_of_res (hu : s.unit? = some u) (m : Memory) :
    UnitStep { s with res := m } (State.advance { s with res := m }) u (fun _ => false) nextUpc :=
  State.advance_unitStep (s := { s with res := m }) hu

end Pack

/-- Inside a slot that a record was written to, a read gives the record's word. -/
theorem Memory.read_writeRecord_slot {m : Memory} (hm : m.wf) (u : LaneUnit) (a : Nat) {k : Nat} (hk : k < 10) :
    Memory.read (Memory.writeWords m a u.record) (a + k) = u.record[k]? := by
  rw [Memory.read_writeWords hm, u.length_record, if_pos ⟨Nat.le_add_right a k, Nat.add_lt_add_left hk a⟩,
    Nat.add_sub_cancel_left]

/-- Outside the slot, a read gives what stood there before. -/
theorem Memory.read_writeRecord_outside {m : Memory} (hm : m.wf) (u : LaneUnit) {a b : Nat}
    (hb : b < a ∨ a + 10 ≤ b) : Memory.read (Memory.writeWords m a u.record) b = Memory.read m b := by
  rw [Memory.read_writeWords hm, u.length_record, if_neg (by omega)]

theorem exec_halt_of_unit {s : State} {u : LaneUnit} (hu : s.unit? = some u) : exec .halt s = .next s.endLane :=
  State.onUnit_of_unit hu _

theorem State.mem_lanes_endLane {s : State} {i : Word} (hr : s.running = .lane i) (l : LaneExec) :
    l ∈ s.endLane.lanes ↔ l ∈ s.lanes ∧ l.unit.laneIndex ≠ i := by
  simp only [State.endLane_of_lane hr, List.mem_filter, bne_iff_ne]

end Sys2Proof.Machine
end

section
/-! The statements about the driver micro-ops. -/
namespace Sys2Proof.Machine

/-- Settles O25: the flag decides both INACTIVE and the jump, and its compare is one of numbers. -/
theorem guardSetsInactiveAndJumps : Obligations.GuardSetsInactiveAndJumps := by
  refine ⟨decode_guard, fun s u hu => ⟨_, State.onUnit_of_unit hu _, ?_⟩⟩
  have hstep := State.guardBranch_unitStep (u' := { u with inactive := guardFlag u.laneIndex s.laneCount }) hu rfl
    (guardFlag u.laneIndex s.laneCount)
  simpa only [guardFlag_eq_decide_toNat, decide_eq_true_eq] using hstep

/-- Settles O26: NONCE is `LaneUnit.deriveNonce` on its unit, and the carry's compare is one of numbers. -/
theorem nonceAddsIndexWithCarry : Obligations.NonceAddsIndexWithCarry := by
  refine ⟨decode_nonce, fun s u hu => ?_⟩
  obtain ⟨t, ht, hst⟩ := State.updateUnit_unitStep (f := LaneUnit.deriveNonce s.baseNonceLo s.baseNonceHi)
    (p := Reg.isNonce) hu (u.deriveNonce_laneIndex _ _)
  exact ⟨t, nonceLow s.baseNonceLo u.laneIndex, nonceHigh s.baseNonceLo s.baseNonceHi u.laneIndex, ht, hst, rfl,
    nonceHigh_eq_ite_toNat _ _ _⟩

/-- Settles O28: IN after BUILD, word by word. -/
theorem buildLaysOutNonce : Obligations.BuildLaysOutNonce := by
  refine ⟨decode_build, fun s u hu => ?_⟩
  obtain ⟨t, ht, hst⟩ := mapsUnit_build.unitStep hu
  exact ⟨t, _, ht, hst, u.get_build⟩

/-- Settles O29: one case for an inactive unit, one for a slot that fits, one for a slot that does not. -/
theorem packWritesItsSlot : Obligations.PackWritesItsSlot := by
  refine ⟨decode_pack, fun s u hwf hu => ⟨_, exec_pack_of_unit hu, fun hina => ?_, fun hact hfit => ?_,
    fun hr hact hover => ?_⟩⟩
  · rw [hina, if_pos rfl]
    exact State.advance_unitStep hu
  · rw [hact, if_neg Bool.false_ne_true, State.packRecord_of_fits hfit, State.advance_res]
    refine ⟨State.advance_unitStep_of_res hu _, ?_, ?_, fun k => ?_, fun a ha => ?_⟩
    · exact Memory.read_writeRecord_slot hwf u _ (k := 0) (by decide)
    · exact Memory.read_writeRecord_slot hwf u _ (k := 1) (by decide)
    · rw [Nat.add_assoc, Memory.read_writeRecord_slot hwf u _ (by omega), u.record_digest]
    · exact Memory.read_writeRecord_outside hwf u ha
  · rw [hact, if_neg Bool.false_ne_true, State.packRecord_of_overflow hover]
    exact State.advance_of_test hr

/-- Settles O31: HALT is `State.endLane`, which filters one LANE_INDEX out of the live lane executions. -/
theorem haltEndsLane : Obligations.HaltEndsLane := by
  refine ⟨decode_halt, fun s hr => ?_, fun s i l hr hl => ?_⟩
  · rw [exec_halt_of_unit (State.unit?_test hr), State.endLane_of_test hr]
  · have hu : s.unit? = some l.unit := by rw [State.unit?_lane hr, hl, Option.map_some]
    refine ⟨s.endLane, exec_halt_of_unit hu, ?_, fun j hj => ?_, State.mem_lanes_endLane hr, ?_⟩
    · rw [State.lane?_endLane hr, if_pos rfl]
    · rw [State.lane?_endLane hr, if_neg hj]
    · rw [State.endLane_of_lane hr]

end Sys2Proof.Machine
end

section
/-! Errors and STATUS (rules R13, R37, R184 and R185): what raising an error does with and without an earlier one, and
the host write that acknowledges it. -/
namespace Sys2Proof.Machine

variable {s : State}

theorem State.raise_errCode_of_noErr (herr : s.err = false) (c : BitVec 4) : (s.raise c).errCode = c := by
  rw [State.raise_errCode, herr, if_neg Bool.false_ne_true]

theorem State.raise_errCode_of_err (herr : s.err = true) (c : BitVec 4) : (s.raise c).errCode = s.errCode := by
  rw [State.raise_errCode, if_pos herr]

/-- Raising writes ERR and ERRCODE alone. -/
theorem State.raise_eq_with (s : State) (c : BitVec 4) :
    s.raise c = { s with err := (s.raise c).err, errCode := (s.raise c).errCode } := rfl

/-- A nested error is lost: ERR and ERRCODE already hold what raising would leave there. -/
theorem State.raise_of_err (herr : s.err = true) (c : BitVec 4) : s.raise c = s := by
  rw [State.raise_eq_with, State.raise_err, State.raise_errCode_of_err herr, ← herr]

/-- A STATUS write is taken before BUSY is looked at. -/
theorem State.hostWriteReg_status {a : BitVec 8} (ha : regAt a = .status) (v : Word) :
    s.hostWriteReg a v = .next (s.writeStatus v) := by
  rw [State.hostWriteReg, if_pos ha]

/-- A STATUS write changes DONE, ERR and ERRCODE alone. -/
theorem State.writeStatus_eq_with (s : State) (v : Word) :
    s.writeStatus v = { s with
      done := (s.writeStatus v).done, err := (s.writeStatus v).err, errCode := (s.writeStatus v).errCode } := rfl

end Sys2Proof.Machine
end

section
/-! The statements about errors and STATUS. -/
namespace Sys2Proof.Machine

/-- Settles O33, with ERRCODE in its two cases: no error before, and one before. -/
theorem raiseKeepsFirstCode : Obligations.RaiseKeepsFirstCode := fun s c =>
  ⟨s.raise_err c, fun herr => State.raise_errCode_of_noErr herr c, fun herr => State.raise_errCode_of_err herr c,
    s.raise_eq_with c⟩

/-- Settles O34: the write answers `State.writeStatus`, and `State.raise` is the identity while ERR is set. -/
theorem statusWriteClearsFlags : Obligations.StatusWriteClearsFlags := fun s v =>
  ⟨s.writeStatus v, State.hostWriteReg_status (by decide) v, s.writeStatus_done v, s.writeStatus_err v,
    s.writeStatus_errCode v, s.writeStatus_eq_with v, fun c herr => State.raise_of_err herr c⟩

end Sys2Proof.Machine
end

section
/-! The one REG address of STATUS (rule R35). -/
namespace Sys2Proof.Machine

/-- The windows hold pattern and test-unit words and reserved addresses, never STATUS. -/
theorem regWindow_ne_status (n : Nat) : regWindow n ≠ .status := by
  unfold regWindow
  split_ifs <;> exact Reg.noConfusion

theorem regAt_ne_status {a : BitVec 8} (ha : a ≠ 0x01) : regAt a ≠ .status := by
  unfold regAt
  split
  case h_2 => exact absurd rfl ha
  case h_17 => exact regWindow_ne_status _
  all_goals exact Reg.noConfusion

end Sys2Proof.Machine
end

section
/-! The statement about host writes while BUSY = 1. -/
namespace Sys2Proof.Machine

/-- Settles O36: every REG address but 0x01 names a register other than STATUS, and BUSY is looked at before the range
of a RES address. -/
theorem busyDropsHostWrites : Obligations.BusyDropsHostWrites := fun _ v hb =>
  ⟨fun _ ha => State.hostWriteReg_busy hb (regAt_ne_status ha) v,
    fun a => congrArg Host.Outcome.next (State.hostWriteRes_busy hb a v)⟩

end Sys2Proof.Machine
end

section
/-! The decoder and the encoder undo one another on well-formed instructions and legal words (rules R70 to R77). -/
namespace Sys2Proof

theorem decode_uopWord (opc : BitVec 8) (rnd : BitVec 5) : decode (uopWord opc rnd) = decodeOpc opc rnd := by
  rw [decode, zField_uopWord, opcField_uopWord, rndField_uopWord, if_pos rfl]

/-- Settles O1: the fields of the word are those the encoder put there, and each row of the opcode map names its own
micro-op; IOTA and ROUND pass their range check because the instruction is well-formed. -/
theorem decodeOfEncode : Obligations.DecodeOfEncode := by
  intro i hi
  cases i with
  | iota r => exact (decode_uopWord 0x13 r).trans (if_pos hi)
  | round r => exact (decode_uopWord 0x14 r).trans (if_pos hi)
  | _ => exact decode_uopWord _ _

theorem decodePlain_eq_legal_iff {i j : Instr} {rnd : BitVec 5} :
    decodePlain i rnd = .legal j ↔ rnd = 0 ∧ i = j := by
  unfold decodePlain
  split <;> simp only [*, true_and, false_and, reduceCtorEq, Decoded.legal.injEq]

theorem decodeRound_eq_legal_iff {i : BitVec 5 → Instr} {j : Instr} {rnd : BitVec 5} :
    decodeRound i rnd = .legal j ↔ roundInRange rnd = true ∧ i rnd = j := by
  unfold decodeRound
  split <;> simp only [*, true_and, false_and, reduceCtorEq, Decoded.legal.injEq, Bool.false_eq_true]

/-- What a row of the opcode map answers is well-formed, and its word has the opcode and RND it was read from. -/
theorem encode_of_decodeOpc {opc : BitVec 8} {rnd : BitVec 5} {i : Instr} (h : decodeOpc opc rnd = .legal i) :
    i.wellFormed = true ∧ encode i = uopWord opc rnd := by
  unfold decodeOpc at h
  split at h
  -- IOTA and ROUND
  case h_4 | h_5 =>
    obtain ⟨hr, rfl⟩ := decodeRound_eq_legal_iff.mp h
    exact ⟨hr, rfl⟩
  -- no row
  case h_17 => cases h
  -- the rows without operand
  all_goals
    obtain ⟨rfl, rfl⟩ := decodePlain_eq_legal_iff.mp h
    exact ⟨rfl, rfl⟩

/-- A word with Z = 000 is put together again from its OPC and RND. -/
theorem uopWord_fields {w : UopWord} (hz : zField w = 0) : uopWord (opcField w) (rndField w) = w := by
  have hzero : ∀ k < 3, w.getLsbD (5 + k) = false := fun k hk => by
    have := congrArg (BitVec.getLsbD · k) hz
    simpa [zField, hk] using this
  refine BitVec.eq_of_getLsbD_eq fun i hi => ?_
  rw [getLsbD_uopWord]
  split
  · simp [rndField, *]
  split
  · have := hzero (i - 5) (by omega)
    rw [show 5 + (i - 5) = i by omega] at this
    exact this.symm
  · simp [opcField, show i - 8 < 8 by omega, show 8 + (i - 8) = i by omega]

/-- Settles O2: Z is 000 and the opcode map has a row for the word, whose instruction has that word. -/
theorem legalWordsAreEncodings : Obligations.LegalWordsAreEncodings := by
  intro w i h
  unfold decode at h
  split at h
  · rename_i hz
    obtain ⟨hwf, henc⟩ := encode_of_decodeOpc h
    exact ⟨hwf, henc.trans (uopWord_fields hz)⟩
  · cases h

/-- Settles O4: the listed words are decoded one by one. -/
theorem listedWordsDecode : Obligations.ListedWordsDecode := by
  have hnone : ([0x1318, 0x1001, 0x1020, 0x0000].all fun w => (decode w).instr? == none) = true := by decide
  refine ⟨by decide, fun i w hw h => ?_⟩
  have := List.all_eq_true.mp hnone w hw
  rw [h] at this
  cases this

/-- Settles O5: the upper half decides before the lower half is decoded. -/
theorem testUopValueSuppliesLowHalf : Obligations.TestUopValueSuppliesLowHalf := by
  intro v i
  unfold decodeTestUop
  split <;> simp only [*, true_and, false_and, reduceCtorEq]

/-- Settles O44: the sixteen values of upc, one by one. -/
theorem microprogramRom : Obligations.MicroprogramRom := by
  unfold Obligations.MicroprogramRom
  decide

end Sys2Proof
end

section
/-! The permutation as a function of the 25 lanes: the datapath's rotate, the closed form of the Rho-Pi walk (rules
R101, R104, R110), and what does not depend on WORD_ORDER (rule R109). -/
namespace Sys2Proof.Machine

/-- Settles O7: the two halves of `datapathRotl`, which is the 64-bit rotate. -/
theorem halfRotateIsRotate : Obligations.HalfRotateIsRotate := by
  intro v s hs
  rw [← datapathRotl_eq_rotl64 v hs, datapathRotl, hiHalf_joinHalves, loHalf_joinHalves]

/-- The lane whose old value the walk carries into step `i`: lane 1 at first, then the target of the step before
(rule R104). -/
def walkSource : Nat → Fin 25
  | 0 => 1
  | i + 1 => targetLane (Fin.ofNat 24 i)

theorem walkSource_succ (i : Fin 24) : walkSource (i.val + 1) = targetLane i := by
  rw [walkSource, Fin.ofNat_val_eq_self]

theorem targetLane_injective : Function.Injective targetLane := by decide

/-- The walk before step `i`: it carries the old value of `walkSource i`, the targets of the steps so far hold the old
values carried into them, rotated, and every other lane is as it was. No step overwrites a lane another one needs, since
the targets are distinct. -/
theorem rhoPiWalk_closed (A : Lanes) {i : Nat} (hi : i ≤ 24) :
    (rhoPiWalk A i).1 = A.get (walkSource i)
      ∧ (∀ j : Fin 24, j.val < i →
          (rhoPiWalk A i).2.get (targetLane j) = rotl64 (A.get (walkSource j.val)) (rotAmount j))
      ∧ ∀ L, (∀ j : Fin 24, j.val < i → targetLane j ≠ L) → (rhoPiWalk A i).2.get L = A.get L := by
  induction i with
  | zero => exact ⟨rfl, fun j hj => absurd hj (Nat.not_lt_zero _), fun _ _ => rfl⟩
  | succ i ih =>
    obtain ⟨hcarried, hdone, hleft⟩ := ih (by omega)
    obtain ⟨hc, hA⟩ := rhoPiWalk_step A ⟨i, hi⟩
    refine ⟨?_, fun j hj => ?_, fun L hL => ?_⟩
    · rw [hc, hleft, ← walkSource_succ]
      intro j hj h
      have := targetLane_injective h
      subst this
      exact Nat.lt_irrefl _ hj
    · rw [hA]
      by_cases hji : j = ⟨i, hi⟩
      · rw [hji, Function.update_self, hcarried]
      · have hlt : j.val < i := Nat.lt_of_le_of_ne (Nat.le_of_lt_succ hj) (Fin.val_ne_of_ne hji)
        rw [Function.update_of_ne (targetLane_injective.ne hji), hdone j hlt]
    · rw [hA, Function.update_of_ne (hL ⟨i, hi⟩ (Nat.lt_succ_self i)).symm]
      exact hleft L fun j hj => hL j (by omega)

theorem get_rhoPiLanes_targetLane (A : Lanes) (j : Fin 24) :
    (rhoPiLanes A).get (targetLane j) = rotl64 (A.get (walkSource j.val)) (rotAmount j) := by
  rw [rhoPiLanes_eq_rhoPiWalk]
  exact (rhoPiWalk_closed A (Nat.le_refl 24)).2.1 j j.isLt

theorem get_rhoPiLanes_zero (A : Lanes) : (rhoPiLanes A).get 0 = A.get 0 := by
  rw [rhoPiLanes_eq_rhoPiWalk]
  exact (rhoPiWalk_closed A (Nat.le_refl 24)).2.2 0 (by decide)

/-- The walk's table against the formula and the offsets of rule R110: every lane but lane 0 is the source of one
step. -/
theorem exists_walk_step : ∀ x y : Fin 5, laneAt x y ≠ 0 → ∃ j : Fin 24,
    walkSource j.val = laneAt x y ∧ targetLane j = laneAt y (2 * x + 3 * y) ∧ rotAmount j = rhoOffset x y := by
  decide

/-- Rule R110: lane (x, y), rotated by its offset, goes to (y, 2x + 3y). -/
theorem get_rhoPiLanes (A : Lanes) (x y : Fin 5) :
    (rhoPiLanes A).get (laneAt y (2 * x + 3 * y)) = rotl64 (A.get (laneAt x y)) (rhoOffset x y) := by
  by_cases h : laneAt x y = 0
  · obtain ⟨rfl, rfl⟩ : x = 0 ∧ y = 0 := by
      revert x y; decide
    exact get_rhoPiLanes_zero A
  · obtain ⟨j, hsource, htarget, hrot⟩ := exists_walk_step x y h
    rw [← htarget, get_rhoPiLanes_targetLane, hsource, hrot]

/-- Settles O10: lane (y, 2x + 3y) of `rhoPiLanes`. -/
theorem rhopiClosedForm : Obligations.RhopiClosedForm := by
  intro s u hu
  obtain ⟨t, ht, hst⟩ := mapsLanes_rhopi.unitStep hu
  refine ⟨t, _, ht, hst, fun x y => ?_⟩
  rw [laneXY, lane_ofLanes, get_rhoPiLanes, get_toLanes, laneXY]

/-- Settles O15: both units put the same 25 lanes through `permuteLanes`. -/
theorem permuteIgnoresWordOrder : Obligations.PermuteIgnoresWordOrder := by
  rintro S T hST s s' u u' hlow hhigh hu hu' rfl rfl
  obtain ⟨t, ht, hst⟩ := mapsLanes_permute.unitStep hu
  obtain ⟨t', ht', hst'⟩ := mapsLanes_permute.unitStep hu'
  have hlanes : toLanes .lowFirst u.S = toLanes .highFirst u'.S :=
    vector_ext fun L => by rw [get_toLanes, get_toLanes, hST]
  refine ⟨t, t', _, _, ht, ht', hst.unit, hst'.unit, fun L => ?_⟩
  rw [hlow, hhigh, lane_ofLanes, lane_ofLanes, hlanes]

/-- Settles O16: such an index is no row of the round-constant table. -/
theorem illFormedRoundIsIllegalUop : Obligations.IllFormedRoundIsIllegalUop := fun s _ hr =>
  ⟨s.permuteUnitRound_outOfRange hr _ _, s.permuteUnitRound_outOfRange hr _ _⟩

end Sys2Proof.Machine
end

section
/-! The hasher's padding and byte views (rules R52, R53, R136). -/
namespace Sys2Proof.Machine

/-- The words of S after CLEAR, ABSORB and PAD (rule R136). -/
theorem LaneUnit.get_padded (u : LaneUnit) (k : Fin 50) :
    u.clear.absorb.pad.S.get k = if h : k.val < 8 then u.IN.get ⟨k.val, h⟩
      else if k = 8 then 0x00000001 else if k = 33 then 0x80000000 else 0 := by
  rw [LaneUnit.get_pad]
  by_cases h : k.val < 8
  · rw [if_neg (by rintro rfl; exact absurd h (by decide)), if_neg (by rintro rfl; exact absurd h (by decide)),
      dif_pos h]
    exact u.clear.get_absorb_leadingWord ⟨k.val, h⟩
  · rw [u.clear.get_absorb_of_le (Nat.not_lt.mp h), LaneUnit.clear_S, get_replicate, dif_neg h]
    simp

/-- Settles O22: the three micro-ops' functions one after the other, then the words of S. -/
theorem paddingFootprint : Obligations.PaddingFootprint := by
  intro s u hu
  have hops : List.Forall₂ (fun i f => ∃ p, MapsUnit i f p) [.clear, .absorb, .pad]
      [fun _ => LaneUnit.clear, fun _ => LaneUnit.absorb, fun _ => LaneUnit.pad] :=
    .cons ⟨_, mapsUnit_clear⟩ (.cons ⟨_, mapsUnit_absorb⟩ (.cons ⟨_, mapsUnit_pad⟩ .nil))
  obtain ⟨t, ht, htu⟩ := State.exists_runs_of_mapsUnit hops hu
  have hpad : u.clear.absorb.pad = { u with S := u.clear.absorb.pad.S } := by
    apply LaneUnit.ext_registers <;> simp
  refine ⟨t, u.clear.absorb.pad.S, ht, htu.trans (congrArg some hpad), fun k => ?_, fun k hk => ?_⟩
  · rw [LaneUnit.get_padded, dif_pos (show (leadingWord k).val < 8 from k.isLt)]
    rfl
  · rw [LaneUnit.get_padded, dif_neg (Nat.not_lt.mpr hk)]

/-- Settles O24: byte 4k + b and byte 4k + 3 - b are of one word, counted from its two ends. -/
theorem collaboratorViewReversesWords : Obligations.CollaboratorViewReversesWords := by
  intro D k b
  have hword : (4 * k.val + b.val) / 4 = (4 * k.val + 3 - b.val) / 4 := by omega
  have hbyte : 3 - (4 * k.val + b.val) % 4 = (4 * k.val + 3 - b.val) % 4 := by omega
  simp only [collabByte, digestByte, hword, hbyte]

end Sys2Proof.Machine
end

section
/-! The hasher against the textbook Keccak-256 (rule R135): the lanes as a lattice, round by round, and the padded block
and the digest byte by byte. -/
namespace Sys2Proof.Machine

/-- The lanes by their coordinates (rule R10). -/
def latticeOf (A : Lanes) : Textbook.Lattice := fun x y => A.get (laneAt x y)

theorem latticeOf_thetaLanes (A : Lanes) : latticeOf (thetaLanes A) = Textbook.theta (latticeOf A) := by
  funext x y
  exact get_thetaLanes A x y

theorem latticeOf_rhoPiLanes (A : Lanes) : latticeOf (rhoPiLanes A) = Textbook.rhoPi (latticeOf A) := by
  funext x y
  have hback : ∀ x y : Fin 5, 2 * (x + 3 * y) + 3 * x = y := by decide
  have h := get_rhoPiLanes A (x + 3 * y) x
  rw [hback] at h
  exact h

theorem latticeOf_chiLanes (A : Lanes) : latticeOf (chiLanes A) = Textbook.chi (latticeOf A) := by
  funext x y
  exact get_chiLanes A x y

theorem latticeOf_iotaLanes (r : Fin 24) (A : Lanes) :
    latticeOf (iotaLanes r A) = Textbook.iota r (latticeOf A) := by
  funext x y
  have hzero : ∀ x y : Fin 5, laneAt x y = 0 ↔ x = 0 ∧ y = 0 := by decide
  simp only [latticeOf, Textbook.iota, get_iotaLanes, hzero, roundConstant_eq_textbook]
  split
  · rename_i h
    rw [h.1, h.2]
    rfl
  · rfl

theorem latticeOf_roundLanes (r : Fin 24) (A : Lanes) :
    latticeOf (roundLanes r A)
      = Textbook.iota r (Textbook.chi (Textbook.rhoPi (Textbook.theta (latticeOf A)))) := by
  rw [roundLanes, latticeOf_iotaLanes, latticeOf_chiLanes, latticeOf_rhoPiLanes, latticeOf_thetaLanes]

theorem latticeOf_permuteLanes (A : Lanes) : latticeOf (permuteLanes A) = Textbook.keccakF (latticeOf A) := by
  unfold permuteLanes Textbook.keccakF
  generalize List.finRange 24 = rounds
  induction rounds generalizing A with
  | nil => rfl
  | cons r rounds ih => rw [List.foldl_cons, List.foldl_cons, ih, latticeOf_roundLanes]

/-! ### Bytes -/

theorem getLsbD_byteLe (v : Word) (b i : Nat) : (byteLe v b).getLsbD i = (decide (i < 8) && v.getLsbD (8 * b + i)) :=
  BitVec.getLsbD_extractLsb' (8 * b) 8 v i

/-- Bit i of a lane put together from bytes is bit i mod 8 of byte i div 8. -/
theorem getLsbD_laneOfBytes (b : Nat → BitVec 8) {i : Nat} (hi : i < 64) :
    (Textbook.laneOfBytes b).getLsbD i = (b (i / 8)).getLsbD (i % 8) := by
  unfold Textbook.laneOfBytes
  change BitVec.getLsbD (w := 8 + (8 + (8 + (8 + (8 + (8 + (8 + 8))))))) _ _ = _
  simp only [BitVec.getLsbD_append]
  split_ifs <;> congr 2 <;> omega

/-- Under LOW_FIRST a lane's bits run through its two words in order. -/
theorem getLsbD_lane_lowFirst (S : Vector Word 50) (L : Fin 25) {i : Nat} (hi : i < 64) :
    (lane .lowFirst S L).getLsbD i = (S.get ⟨2 * L.val + i / 32, by omega⟩).getLsbD (i % 32) := by
  rw [lane, getLsbD_joinHalves]
  split
  · simp only [loIndex, show 2 * L.val + i / 32 = 2 * L.val by omega, show i % 32 = i by omega]
  · simp only [hiIndex, show 2 * L.val + i / 32 = 2 * L.val + 1 by omega, show i % 32 = i - 32 by omega]

/-- Under LOW_FIRST byte j of S is byte j mod 8 of lane j div 8 (rule R52). -/
theorem keccakByte_eq_extractLsb' (S : Vector Word 50) (j : Fin 200) :
    keccakByte S j = (lane .lowFirst S ⟨j.val / 8, by omega⟩).extractLsb' (8 * (j.val % 8)) 8 := by
  refine BitVec.eq_of_getLsbD_eq fun i hi => ?_
  rw [keccakByte, getLsbD_byteLe, BitVec.getLsbD_extractLsb', getLsbD_lane_lowFirst S _ (by omega)]
  have hword : 2 * (j.val / 8) + (8 * (j.val % 8) + i) / 32 = j.val / 4 := by omega
  have hbit : (8 * (j.val % 8) + i) % 32 = 8 * (j.val % 4) + i := by omega
  simp only [hword, hbit]

/-- A lane is put together from its eight bytes of S. -/
theorem lane_eq_laneOfBytes {S : Vector Word 50} {L : Fin 25} {b : Nat → BitVec 8}
    (hb : ∀ k : Fin 8, b k.val = keccakByte S ⟨8 * L.val + k.val, by omega⟩) :
    lane .lowFirst S L = Textbook.laneOfBytes b := by
  refine BitVec.eq_of_getLsbD_eq fun i hi => ?_
  rw [getLsbD_laneOfBytes b hi, hb ⟨i / 8, by omega⟩, keccakByte_eq_extractLsb', BitVec.getLsbD_extractLsb']
  have hlane : (8 * L.val + i / 8) / 8 = L.val := by omega
  have hbit : 8 * ((8 * L.val + i / 8) % 8) + i % 8 = i := by omega
  simp only [hlane, hbit, show i % 8 < 8 by omega, decide_true, Bool.true_and, Fin.eta]

/-- The bytes of the first pad word, of the last one and of a zero word. -/
theorem byteLe_padFirst : ∀ r < 4, byteLe 0x00000001 r = if r = 0 then 0x01 else 0 := by decide
theorem byteLe_padLast : ∀ r < 4, byteLe 0x80000000 r = if r = 3 then 0x80 else 0 := by decide
theorem byteLe_zero : ∀ r < 4, byteLe 0 r = 0 := by decide

/-- The bytes of S after CLEAR, ABSORB and PAD are the padded block, with zeros for the capacity (rules R52, R136). -/
theorem keccakByte_padded (u : LaneUnit) (j : Fin 200) :
    keccakByte u.clear.absorb.pad.S j = Textbook.paddedByte (digestByte u.IN) j.val := by
  have hr : j.val % 4 < 4 := Nat.mod_lt _ (by decide)
  have h8 : ((8 : Fin 50) : Nat) = 8 := rfl
  have h33 : ((33 : Fin 50) : Nat) = 33 := rfl
  simp only [keccakByte, LaneUnit.get_padded, Textbook.paddedByte, Fin.ext_iff, h8, h33]
  by_cases hIN : j.val < 32
  · rw [dif_pos (show j.val / 4 < 8 by omega), dif_pos hIN]
    rfl
  rw [dif_neg (show ¬j.val / 4 < 8 by omega), dif_neg hIN]
  by_cases hfirst : j.val / 4 = 8
  · rw [if_pos hfirst, byteLe_padFirst _ hr, if_neg (show ¬j.val = 135 by omega)]
    exact if_congr (by omega) rfl rfl
  rw [if_neg hfirst, if_neg (show ¬j.val = 32 by omega)]
  by_cases hlast : j.val / 4 = 33
  · rw [if_pos hlast, byteLe_padLast _ hr]
    exact if_congr (by omega) rfl rfl
  · rw [if_neg hlast, byteLe_zero _ hr, if_neg (show ¬j.val = 135 by omega)]

/-- Before PERMUTE, HASH has the lattice of the padded block in S. -/
theorem latticeOf_padded (u : LaneUnit) :
    latticeOf (toLanes .lowFirst u.clear.absorb.pad.S)
      = fun x y => Textbook.laneOfBytes fun b =>
          Textbook.paddedByte (digestByte u.IN) (8 * (x.val + 5 * y.val) + b) := by
  funext x y
  rw [latticeOf, get_toLanes]
  exact lane_eq_laneOfBytes fun k => (keccakByte_padded u ⟨8 * (x.val + 5 * y.val) + k.val, by omega⟩).symm

/-- A digest byte after EXTRACT is the same byte of S. -/
theorem digestByte_extract (u : LaneUnit) (j : Fin 32) :
    digestByte u.extract.DIG j = keccakByte u.S ⟨j.val, by omega⟩ := by
  simp only [digestByte, keccakByte, LaneUnit.extract_DIG, get_ofFn, leadingWord]

theorem digestByte_hash (u : LaneUnit) (j : Fin 32) :
    digestByte (u.hash .lowFirst).DIG j = Textbook.keccak256 (digestByte u.IN) j := by
  have hlane : (⟨j.val / 8, by omega⟩ : Fin 25) = laneAt ⟨j.val / 8, by omega⟩ 0 := rfl
  rw [LaneUnit.hash_DIG, digestByte_extract, keccakByte_eq_extractLsb', LaneUnit.permute_S, lane_ofLanes]
  simp only [Textbook.keccak256]
  rw [← latticeOf_padded, ← latticeOf_permuteLanes, latticeOf, ← hlane]

/-- Settles O23: HASH puts its unit through `LaneUnit.hash`. -/
theorem hashIsKeccak256 : Obligations.HashIsKeccak256 := by
  intro s u hwo hu
  obtain ⟨t, ht, hst⟩ := mapsUnit_hash.unitStep hu
  rw [hwo] at hst
  exact ⟨t, _, ht, hst.unit, digestByte_hash u⟩

end Sys2Proof.Machine
end

section
/-! What a micro-op makes of its lane unit depends on the registers it reads alone (the Operands lines of rules R103 to
R156), and every meaning has one of six forms. -/
namespace Sys2Proof.Machine

/-- The registers of a lane unit, by the names of the test unit's windows (rule R45). -/
def Reg.isUnit (r : Reg) : Bool :=
  r.isS (fun _ => true) || r.isIn || r.isDig || r.isNonce || decide (r = .testLaneIndex)

/-- The two lane units hold the same in the registers `q`, and have the same INACTIVE. -/
structure LaneUnit.AgreesOn (u v : LaneUnit) (q : Reg → Prop) : Prop where
  S : ∀ k, q (.testS k) → v.S.get k = u.S.get k
  IN : ∀ k, q (.testIn k) → v.IN.get k = u.IN.get k
  DIG : ∀ k, q (.testDig k) → v.DIG.get k = u.DIG.get k
  nonceLo : q .testNonceLo → v.nonceLo = u.nonceLo
  nonceHi : q .testNonceHi → v.nonceHi = u.nonceHi
  laneIndex : q .testLaneIndex → v.laneIndex = u.laneIndex
  inactive : v.inactive = u.inactive

/-- What `f` leaves in the registers `written` depends on the registers `read` alone, and it leaves the others as they
are: where two units agree on a set of registers that holds those read, they agree afterwards on those written too. -/
structure ReadsOnly (f : LaneUnit → LaneUnit) (read written : Reg → Bool) : Prop where
  agrees : ∀ {u v : LaneUnit} {q : Reg → Prop}, (∀ r, read r = true → q r) → u.AgreesOn v q →
    (f u).AgreesOn (f v) fun r => q r ∨ written r = true
  isUnit : ∀ r, written r = true → r.isUnit = true

theorem Reg.isUnit_of_isS {p : Nat → Bool} (r : Reg) (h : r.isS p = true) : r.isUnit = true := by
  cases r
  case testS => rfl
  all_goals cases h

theorem Reg.isUnit_of_isDig (r : Reg) (h : r.isDig = true) : r.isUnit = true := by simp [Reg.isUnit, h]

theorem Reg.isUnit_of_isIn (r : Reg) (h : r.isIn = true) : r.isUnit = true := by simp [Reg.isUnit, h]

theorem Reg.isUnit_of_isNonce (r : Reg) (h : r.isNonce = true) : r.isUnit = true := by simp [Reg.isUnit, h]

/-! ### One register of a pair of units at a time -/

section Set

variable {u v : LaneUnit} {q : Reg → Prop}

/-- A register is in `q` or written, and not written. -/
theorem left_of_not_written {a : Prop} (h : a ∨ false = true) : a := h.resolve_right Bool.false_ne_true

theorem LaneUnit.AgreesOn.setS (h : u.AgreesOn v q) {S T : Vector Word 50} {p : Nat → Bool}
    (hS : ∀ k, q (.testS k) ∨ p k.val = true → T.get k = S.get k) :
    LaneUnit.AgreesOn { u with S := S } { v with S := T } fun r => q r ∨ r.isS p = true where
  S := hS
  IN k hk := h.IN k (left_of_not_written hk)
  DIG k hk := h.DIG k (left_of_not_written hk)
  nonceLo hk := h.nonceLo (left_of_not_written hk)
  nonceHi hk := h.nonceHi (left_of_not_written hk)
  laneIndex hk := h.laneIndex (left_of_not_written hk)
  inactive := h.inactive

theorem LaneUnit.AgreesOn.setIN (h : u.AgreesOn v q) (I : Vector Word 8) :
    LaneUnit.AgreesOn { u with IN := I } { v with IN := I } fun r => q r ∨ r.isIn = true where
  S k hk := h.S k (left_of_not_written hk)
  IN _ _ := rfl
  DIG k hk := h.DIG k (left_of_not_written hk)
  nonceLo hk := h.nonceLo (left_of_not_written hk)
  nonceHi hk := h.nonceHi (left_of_not_written hk)
  laneIndex hk := h.laneIndex (left_of_not_written hk)
  inactive := h.inactive

theorem LaneUnit.AgreesOn.setDIG (h : u.AgreesOn v q) (D : Vector Word 8) :
    LaneUnit.AgreesOn { u with DIG := D } { v with DIG := D } fun r => q r ∨ r.isDig = true where
  S k hk := h.S k (left_of_not_written hk)
  IN k hk := h.IN k (left_of_not_written hk)
  DIG _ _ := rfl
  nonceLo hk := h.nonceLo (left_of_not_written hk)
  nonceHi hk := h.nonceHi (left_of_not_written hk)
  laneIndex hk := h.laneIndex (left_of_not_written hk)
  inactive := h.inactive

theorem LaneUnit.AgreesOn.setNonce (h : u.AgreesOn v q) (lo hi : Word) :
    LaneUnit.AgreesOn { u with nonceLo := lo, nonceHi := hi } { v with nonceLo := lo, nonceHi := hi }
      fun r => q r ∨ r.isNonce = true where
  S k hk := h.S k (left_of_not_written hk)
  IN k hk := h.IN k (left_of_not_written hk)
  DIG k hk := h.DIG k (left_of_not_written hk)
  nonceLo _ := rfl
  nonceHi _ := rfl
  laneIndex hk := h.laneIndex (left_of_not_written hk)
  inactive := h.inactive

theorem LaneUnit.AgreesOn.setInactive (h : u.AgreesOn v q) (b : Bool) :
    LaneUnit.AgreesOn { u with inactive := b } { v with inactive := b } q :=
  ⟨h.S, h.IN, h.DIG, h.nonceLo, h.nonceHi, h.laneIndex, rfl⟩

theorem LaneUnit.AgreesOn.mono (h : u.AgreesOn v q) {p : Reg → Prop} (hp : ∀ r, p r → q r) : u.AgreesOn v p where
  S k hk := h.S k (hp _ hk)
  IN k hk := h.IN k (hp _ hk)
  DIG k hk := h.DIG k (hp _ hk)
  nonceLo hk := h.nonceLo (hp _ hk)
  nonceHi hk := h.nonceHi (hp _ hk)
  laneIndex hk := h.laneIndex (hp _ hk)
  inactive := h.inactive

end Set

/-! ### The permutation micro-ops -/

section Lanes

variable {wo : WordOrder}

/-- A lane is its two words. -/
theorem lane_congr {S T : Vector Word 50} {L : Fin 25} (h : ∀ k, laneOfWord k = L → T.get k = S.get k) :
    lane wo T L = lane wo S L := by
  rw [lane, lane, h _ (laneOfWord_hiIndex wo L), h _ (laneOfWord_loIndex wo L)]

/-- A permutation micro-op that writes the words `p` of S: it needs to be said of its function only what it makes of the
lanes those words belong to, and that it leaves the other lanes. -/
theorem readsOnly_mapLanes {f : Lanes → Lanes} {read p : Nat → Bool}
    (hwritten : ∀ (A B : Lanes) (L : Fin 25), (∀ M : Fin 25, read (2 * M.val) = true → B.get M = A.get M) →
      p (2 * L.val) = true → (f B).get L = (f A).get L)
    (hleft : ∀ (A : Lanes) (L : Fin 25), p (2 * L.val) = false → (f A).get L = A.get L)
    (hread : ∀ k : Fin 50, read (2 * (laneOfWord k).val) = read k.val)
    (hp : ∀ k : Fin 50, p (2 * (laneOfWord k).val) = p k.val) :
    ReadsOnly (fun u => u.mapLanes wo f) (Reg.isS read) (Reg.isS p) where
  isUnit := Reg.isUnit_of_isS
  agrees := by
    intro u v q hq h
    unfold LaneUnit.mapLanes
    refine h.setS fun k hk => ?_
    rw [get_ofLanes, get_ofLanes]
    cases hpk : p k.val with
    | true =>
      rw [hwritten (toLanes wo u.S) (toLanes wo v.S) _ (fun M hM => ?_) ((hp k).trans hpk)]
      rw [get_toLanes, get_toLanes]
      refine lane_congr fun j hj => h.S j (hq _ ?_)
      rwa [← hj, hread] at hM
    | false =>
      rw [hleft _ _ ((hp k).trans hpk), hleft _ _ ((hp k).trans hpk), get_toLanes, get_toLanes, halfOf_lane,
        halfOf_lane]
      exact h.S k (hk.resolve_right (by rw [hpk]; exact Bool.false_ne_true))

/-- A permutation micro-op that reads and writes all of S. -/
theorem readsOnly_mapLanes_all (f : Lanes → Lanes) :
    ReadsOnly (fun u => u.mapLanes wo f) (Reg.isS fun _ => true) (Reg.isS fun _ => true) :=
  readsOnly_mapLanes (fun A B L hM _ => by rw [vector_ext fun M => hM M rfl]) (fun _ _ h => by cases h) (fun _ => rfl)
    (fun _ => rfl)

/-- Lane 0 is no target of the walk and no source. -/
theorem exists_target_of_ne_zero : ∀ L : Fin 25, L ≠ 0 → ∃ j : Fin 24, targetLane j = L := by decide

theorem walkSource_ne_zero : ∀ j : Fin 24, 2 ≤ 2 * (walkSource j.val).val := by decide

theorem readsOnly_rhopi :
    ReadsOnly (fun u => u.mapLanes wo rhoPiLanes) (Reg.isS fun k => decide (2 ≤ k))
      (Reg.isS fun k => decide (2 ≤ k)) := by
  have hword : ∀ k : Fin 50, decide (2 ≤ 2 * (laneOfWord k).val) = decide (2 ≤ k.val) := by decide
  refine readsOnly_mapLanes (fun A B L hM hL => ?_) (fun A L hL => ?_) hword hword
  · obtain ⟨j, rfl⟩ := exists_target_of_ne_zero L (by rintro rfl; exact absurd hL (by decide))
    rw [get_rhoPiLanes_targetLane, get_rhoPiLanes_targetLane, hM _ (decide_eq_true (walkSource_ne_zero j))]
  · obtain rfl : L = 0 := Fin.ext (by have := of_decide_eq_false hL; simp only [Fin.val_zero]; omega)
    exact get_rhoPiLanes_zero A

theorem readsOnly_iota (r : Fin 24) :
    ReadsOnly (fun u => u.mapLanes wo (iotaLanes r)) (Reg.isS fun k => decide (k < 2))
      (Reg.isS fun k => decide (k < 2)) := by
  have hword : ∀ k : Fin 50, decide (2 * (laneOfWord k).val < 2) = decide (k.val < 2) := by decide
  refine readsOnly_mapLanes (fun A B L hM hL => ?_) (fun A L hL => ?_) hword hword
  · obtain rfl : L = 0 := Fin.ext (by have := of_decide_eq_true hL; simp only [Fin.val_zero]; omega)
    rw [get_iotaLanes, get_iotaLanes, hM 0 rfl]
  · rw [get_iotaLanes, if_neg]
    rintro rfl
    exact absurd hL (by decide)

end Lanes

/-! ### The other micro-ops -/

theorem LaneUnit.pad_eq (u : LaneUnit) : u.pad = { u with S := u.pad.S } := by
  unfold LaneUnit.pad
  rfl

theorem LaneUnit.extract_eq (u : LaneUnit) : u.extract = { u with DIG := u.extract.DIG } := by
  unfold LaneUnit.extract
  rfl

theorem LaneUnit.build_eq (u : LaneUnit) : u.build = { u with IN := u.build.IN } := by
  unfold LaneUnit.build
  rfl

theorem readsOnly_clear : ReadsOnly LaneUnit.clear (fun _ => false) (Reg.isS fun _ => true) where
  isUnit := Reg.isUnit_of_isS
  agrees := fun _ h => h.setS fun _ _ => rfl

theorem readsOnly_absorb : ReadsOnly LaneUnit.absorb Reg.isIn (Reg.isS fun k => decide (k < 8)) where
  isUnit := Reg.isUnit_of_isS
  agrees := by
    intro u v q hq h
    unfold LaneUnit.absorb
    refine h.setS fun k hk => ?_
    rw [get_ofFn, get_ofFn]
    split
    · exact h.IN _ (hq _ rfl)
    · exact h.S k (hk.resolve_right (by simpa using ‹¬k.val < 8›))

theorem readsOnly_pad :
    ReadsOnly LaneUnit.pad (Reg.isS fun k => k == 8 || k == 33) (Reg.isS fun k => k == 8 || k == 33) where
  isUnit := Reg.isUnit_of_isS
  agrees := by
    intro u v q hq h
    have hS : ∀ k, q (.testS k) ∨ (k.val == 8 || k.val == 33) = true → v.S.get k = u.S.get k := fun k hk =>
      h.S k (hk.elim id (hq (.testS k)))
    rw [u.pad_eq, v.pad_eq]
    refine h.setS fun k hk => ?_
    rw [LaneUnit.get_pad, LaneUnit.get_pad, hS k hk]

theorem readsOnly_extract : ReadsOnly LaneUnit.extract (Reg.isS fun k => decide (k < 8)) Reg.isDig where
  isUnit := Reg.isUnit_of_isDig
  agrees := by
    intro u v q hq h
    have hD : v.extract.DIG = u.extract.DIG := vector_ext fun k => by
      rw [LaneUnit.extract_DIG, LaneUnit.extract_DIG, get_ofFn, get_ofFn,
        h.S _ (hq _ (decide_eq_true (show (leadingWord k).val < 8 from k.isLt)))]
    rw [u.extract_eq, v.extract_eq, hD]
    exact h.setDIG _

theorem readsOnly_hash (wo : WordOrder) :
    ReadsOnly (LaneUnit.hash wo) Reg.isIn (fun r => r.isS (fun _ => true) || r.isDig) where
  isUnit := fun r hr => (Bool.or_eq_true _ _ ▸ hr).elim (Reg.isUnit_of_isS r) (Reg.isUnit_of_isDig r)
  agrees := by
    intro u v q hq h
    have hIN : v.IN = u.IN := vector_ext fun k => h.IN k (hq _ rfl)
    have hpadded : v.clear.absorb.pad.S = u.clear.absorb.pad.S := vector_ext fun k => by
      rw [LaneUnit.get_padded, LaneUnit.get_padded, hIN]
    have hS : (v.hash wo).S = (u.hash wo).S := by
      rw [LaneUnit.hash_S, LaneUnit.hash_S, LaneUnit.permute_congr wo hpadded]
    have hD : (v.hash wo).DIG = (u.hash wo).DIG := by
      rw [LaneUnit.hash_DIG, LaneUnit.hash_DIG, LaneUnit.extract_congr (LaneUnit.permute_congr wo hpadded)]
    rw [u.hash_eq wo, v.hash_eq wo, hS, hD]
    have hset := h.setS (S := (u.hash wo).S) (p := fun _ => true) fun _ _ => rfl
    refine (hset.setDIG (u.hash wo).DIG).mono fun r hr => ?_
    rwa [Bool.or_eq_true, ← or_assoc] at hr

theorem readsOnly_build : ReadsOnly LaneUnit.build Reg.isNonce Reg.isIn where
  isUnit := Reg.isUnit_of_isIn
  agrees := by
    intro u v q hq h
    have hI : v.build.IN = u.build.IN := by
      rw [LaneUnit.build_IN, LaneUnit.build_IN, h.nonceLo (hq _ rfl), h.nonceHi (hq _ rfl)]
    rw [u.build_eq, v.build_eq, hI]
    exact h.setIN _

/-- The micro-op puts its lane unit through a function that reads the registers `Instr.reads` says, on the test unit as
on a dispatch lane unit. -/
def MapsUnitReading (i : Instr) : Prop :=
  ∃ f p, MapsUnit i f p ∧ ∀ wo inactive, ReadsOnly (f wo) (Instr.reads inactive i) p

/-- IOTA and ROUND with a round index out of range, which no word encodes (log 15). -/
def RaisesIllegalUop (i : Instr) : Prop := ∀ s, exec i s = .next (s.raise errIllegalUop)

/-- A permutation micro-op with an operand has the row of its round, or is ill-formed. -/
theorem mapsUnitReading_or_raises {i : Instr} {r : BitVec 5} {f : Fin 24 → Lanes → Lanes} {p : Nat → Bool}
    (hexec : ∀ s, exec i s = s.permuteUnitRound r f p)
    (hreads : ∀ k wo inactive, ReadsOnly (fun u => u.mapLanes wo (f k)) (Instr.reads inactive i) (Reg.isS p)) :
    MapsUnitReading i ∨ RaisesIllegalUop i := by
  cases hr : roundIndex? r with
  | none => exact .inr fun s => by rw [hexec, State.permuteUnitRound, hr]
  | some k =>
    have hmaps : MapsLanes i (f k) p := fun s => by rw [hexec, State.permuteUnitRound, hr]
    exact .inl ⟨_, _, hmaps.mapsUnit, hreads k⟩

/-- Every meaning is an update of the lane unit, an error and nothing else, or that of NONCE, GUARD, PACK or HALT. -/
theorem exec_kinds (i : Instr) :
    MapsUnitReading i ∨ RaisesIllegalUop i ∨ i = .nonce ∨ i = .guard ∨ i = .pack ∨ i = .halt := by
  cases i with
  | theta => exact .inl ⟨_, _, mapsLanes_theta.mapsUnit, fun _ _ => readsOnly_mapLanes_all _⟩
  | rhopi => exact .inl ⟨_, _, mapsLanes_rhopi.mapsUnit, fun _ _ => readsOnly_rhopi⟩
  | chi => exact .inl ⟨_, _, mapsLanes_chi.mapsUnit, fun _ _ => readsOnly_mapLanes_all _⟩
  | iota r => exact or_assoc.mp (.inl (mapsUnitReading_or_raises (fun _ => rfl) fun k _ _ => readsOnly_iota k))
  | round r => exact or_assoc.mp (.inl (mapsUnitReading_or_raises (fun _ => rfl) fun _ _ _ => readsOnly_mapLanes_all _))
  | permute => exact .inl ⟨_, _, mapsUnit_permute, fun _ _ => readsOnly_mapLanes_all _⟩
  | clear => exact .inl ⟨_, _, mapsUnit_clear, fun _ _ => readsOnly_clear⟩
  | absorb => exact .inl ⟨_, _, mapsUnit_absorb, fun _ _ => readsOnly_absorb⟩
  | pad => exact .inl ⟨_, _, mapsUnit_pad, fun _ _ => readsOnly_pad⟩
  | extract => exact .inl ⟨_, _, mapsUnit_extract, fun _ _ => readsOnly_extract⟩
  | hash => exact .inl ⟨_, _, mapsUnit_hash, fun wo _ => readsOnly_hash wo⟩
  | build => exact .inl ⟨_, _, mapsUnit_build, fun _ _ => readsOnly_build⟩
  | nonce => simp
  | guard => simp
  | pack => simp
  | halt => simp

end Sys2Proof.Machine
end

section
/-! The nonce as a number (rule R164), and the forms a meaning has in a given state (rules R102, R151). -/
namespace Sys2Proof.Machine

theorem joinHalves_nonce (baseLo baseHi index : Word) :
    joinHalves (nonceHigh baseLo baseHi index) (nonceLow baseLo index)
      = joinHalves baseHi baseLo + index.setWidth 64 := by
  obtain ⟨hlo, hhi⟩ := nonce_halves { State.reset with baseNonceLo := baseLo, baseNonceHi := baseHi } index
  have hwidth : BitVec.ofNat 64 index.toNat = index.setWidth 64 := BitVec.eq_of_toNat_eq (by simp)
  rw [← hwidth]
  exact (congrArg₂ joinHalves hhi hlo).trans (joinHalves_halves _)

theorem exec_nonce_of_unit {s : State} {u : LaneUnit} (hu : s.unit? = some u) :
    ∃ t, exec .nonce s = .next t
      ∧ UnitStep s t (u.deriveNonce s.baseNonceLo s.baseNonceHi) Reg.isNonce nextUpc :=
  State.updateUnit_unitStep hu (u.deriveNonce_laneIndex _ _)

/-- Settles O27: adding to one base is injective, and so is taking a 32-bit index as a 64-bit number. -/
theorem nonceLaw : Obligations.NonceLaw := by
  intro s s' u u' hu hu' hlo hhi
  obtain ⟨t, ht, hst⟩ := exec_nonce_of_unit hu
  obtain ⟨t', ht', hst'⟩ := exec_nonce_of_unit hu'
  refine ⟨t, t', _, _, ht, hst.unit, ht', hst'.unit, ?_, fun hne heq => hne ?_⟩
  · exact joinHalves_nonce _ _ _
  · simp only [LaneUnit.deriveNonce_nonceHi, LaneUnit.deriveNonce_nonceLo, joinHalves_nonce, hlo, hhi,
      BitVec.add_right_inj] at heq
    simpa using congrArg (BitVec.setWidth 32) heq

/-- Settles O30: the record's write is replaced by the error, and then the upc moves on. -/
theorem packOverflowOnLane : Obligations.PackOverflowOnLane := by
  intro s u i _ hu hact hover
  refine ⟨_, exec_pack_of_unit hu, ?_⟩
  rw [hact, if_neg Bool.false_ne_true, State.packRecord_of_overflow hover]
  exact State.advance_unitStep (s := s.raise errResultsOutOfBounds) hu

/-- In `s` the micro-op puts its lane unit through a function that keeps LANE_INDEX, writing some of its registers. -/
def UpdatesUnit (i : Instr) (s : State) : Prop :=
  ∃ f p, exec i s = s.updateUnit f p ∧ ∀ u, (f u).laneIndex = u.laneIndex

theorem MapsUnit.updatesUnit {i : Instr} {f : WordOrder → LaneUnit → LaneUnit} {p : Reg → Bool} (h : MapsUnit i f p)
    (s : State) : UpdatesUnit i s := ⟨_, _, h.exec_eq s, h.laneIndex _⟩

/-- In any one state NONCE, too, is an update of the lane unit. -/
theorem exec_forms (i : Instr) (s : State) :
    UpdatesUnit i s ∨ exec i s = .next (s.raise errIllegalUop) ∨ i = .guard ∨ i = .pack ∨ i = .halt := by
  rcases exec_kinds i with ⟨f, p, h, -⟩ | h | rfl | rfl | rfl | rfl
  · exact .inl (h.updatesUnit s)
  · exact .inr (.inl (h s))
  · exact .inl ⟨_, _, rfl, fun u => u.deriveNonce_laneIndex _ _⟩
  · simp
  · simp
  · simp

/-- Settles O32: in each form there is nothing to stop at once the lane unit exists. -/
theorem everyMicroOpCompletes : Obligations.EveryMicroOpCompletes := by
  intro i s u hu
  rcases exec_forms i s with ⟨f, p, h, -⟩ | h | rfl | rfl | rfl
  · exact ⟨_, h.trans (State.onUnit_of_unit hu _)⟩
  · exact ⟨_, h⟩
  · exact ⟨_, State.onUnit_of_unit hu _⟩
  · exact ⟨_, State.onUnit_of_unit hu _⟩
  · exact ⟨_, State.onUnit_of_unit hu _⟩

end Sys2Proof.Machine
end

section
/-! The map of the register block (rules R35 to R46): which register stands at an address, and what a store into one
does to each. -/
namespace Sys2Proof.Machine

theorem regAt_testIn {a : BitVec 8} {k : Fin 8} (h : a.toNat = 0x10 + k.val) : regAt a = .testIn k := by
  obtain rfl : a = BitVec.ofNat 8 (0x10 + k.val) := BitVec.eq_of_toNat_eq (by rw [BitVec.toNat_ofNat]; omega)
  revert k; decide

theorem regAt_testDig {a : BitVec 8} {k : Fin 8} (h : a.toNat = 0x18 + k.val) : regAt a = .testDig k := by
  obtain rfl : a = BitVec.ofNat 8 (0x18 + k.val) := BitVec.eq_of_toNat_eq (by rw [BitVec.toNat_ofNat]; omega)
  revert k; decide

theorem regAt_testS {a : BitVec 8} {k : Fin 50} (h : a.toNat = 0x40 + k.val) : regAt a = .testS k := by
  obtain rfl : a = BitVec.ofNat 8 (0x40 + k.val) := BitVec.eq_of_toNat_eq (by rw [BitVec.toNat_ofNat]; omega)
  revert k; decide

/-- The reserved addresses of rule R46. -/
theorem regAt_reserved : ∀ a : BitVec 8, a ∈ [0x07, 0x0B] ∨ (0x22 ≤ a.toNat ∧ a.toNat ≤ 0x3F) ∨ 0x72 ≤ a.toNat →
    regAt a = .reserved := by decide +kernel

/-- The model's map is that of rules R35 and R45. -/
theorem State.mapRow_regAt (s : State) (a : BitVec 8) : s.MapRow a (regAt a) (s.regValue (regAt a)) := by
  constructor
  case testIn => intro k h; rw [regAt_testIn h]; exact ⟨rfl, rfl⟩
  case testDig => intro k h; rw [regAt_testDig h]; exact ⟨rfl, rfl⟩
  case testS => intro k h; rw [regAt_testS h]; exact ⟨rfl, rfl⟩
  all_goals rintro rfl; exact ⟨rfl, rfl⟩

/-! ### Stores -/

/-- The registers that a host write stores a word in: the read/write registers of rules R35 and R45. -/
def Reg.isStored : Reg → Bool
  | .ctrl => false
  | .status => false
  | .resultsWords => false
  | .testUop => false
  | .testFlags => false
  | .testDig _ => false
  | .testNonceLo => false
  | .testNonceHi => false
  | .reserved => false
  | _ => true

variable {s : State} {r : Reg}

/-- A write to any other register is ignored (rule R46). -/
theorem State.storeReg_of_not_isStored (h : r.isStored = false) (v : Word) : s.storeReg r v = s := by
  cases r
  case ctrl | status | resultsWords | testUop | testFlags | testDig | testNonceLo | testNonceHi | reserved => rfl
  all_goals cases h

theorem State.regValue_storeReg_self (h : r.isStored = true) (v : Word) : (s.storeReg r v).regValue r = v := by
  cases r
  case testIn k => simp [State.storeReg, State.regValue, get_set]
  case testS k => simp [State.storeReg, State.regValue, get_set]
  case ctrl | status | resultsWords | testUop | testFlags | testDig | testNonceLo | testNonceHi | reserved => cases h
  all_goals rfl

theorem State.regValue_storeReg_of_ne {q : Reg} (h : q ≠ r) (v : Word) :
    (s.storeReg r v).regValue q = s.regValue q := by
  cases r
  case testIn k =>
    cases q
    case testIn j =>
      have : ¬k.val = j.val := fun hk => h (congrArg Reg.testIn (Fin.ext hk.symm))
      simp [State.storeReg, State.regValue, get_set, this]
    all_goals rfl
  case testS k =>
    cases q
    case testS j =>
      have : ¬k.val = j.val := fun hk => h (congrArg Reg.testS (Fin.ext hk.symm))
      simp [State.storeReg, State.regValue, get_set, this]
    all_goals rfl
  all_goals cases q <;> simp_all [State.storeReg, State.regValue] <;> rfl

theorem State.unwritten_storeReg (h : r.isStored = true) (v : Word) :
    (s.storeReg r v).unwritten = s.unwritten.filter fun q => !r.only q := by
  cases r
  case ctrl | status | resultsWords | testUop | testFlags | testDig | testNonceLo | testNonceHi | reserved => cases h
  all_goals rfl

theorem State.mem_unwritten_storeReg (h : r.isStored = true) (v : Word) (q : Reg) :
    q ∈ (s.storeReg r v).unwritten ↔ q ∈ s.unwritten ∧ q ≠ r := by
  simp [State.unwritten_storeReg h, Reg.only]

/-- A store changes a configuration word, a pattern word or the test unit, and the UNSPECIFIED marks. -/
theorem State.storeReg_eq_with (s : State) (r : Reg) (v : Word) :
    s.storeReg r v = { s with
      launchWidth := (s.storeReg r v).launchWidth, baseNonceLo := (s.storeReg r v).baseNonceLo
      baseNonceHi := (s.storeReg r v).baseNonceHi, laneCount := (s.storeReg r v).laneCount
      patternValue := (s.storeReg r v).patternValue, patternType := (s.storeReg r v).patternType
      patternLength := (s.storeReg r v).patternLength, patternReserved := (s.storeReg r v).patternReserved
      test := (s.storeReg r v).test, unwritten := (s.storeReg r v).unwritten } := by
  cases r <;> rfl

/-- The read/write addresses of rules R35 and R45. -/
theorem isStored_regAt : ∀ a : BitVec 8, (a ∈ [0x02, 0x05, 0x08, 0x09, 0x0A, 0x0C, 0x0D, 0x0E, 0x0F]
      ∨ (0x10 ≤ a.toNat ∧ a.toNat ≤ 0x17) ∨ (0x40 ≤ a.toNat ∧ a.toNat ≤ 0x71)) → (regAt a).isStored = true := by
  decide +kernel

/-- The read-only addresses of rules R39, R41 and R45. -/
theorem isStored_regAt_readOnly : ∀ a : BitVec 8, (a ∈ [0x03, 0x06] ∨ (0x18 ≤ a.toNat ∧ a.toNat ≤ 0x21)) →
    (regAt a).isStored = false ∧ regAt a ≠ .status ∧ regAt a ≠ .ctrl ∧ regAt a ≠ .testUop := by
  decide +kernel

/-- A write while BUSY = 0 to a register that neither starts anything nor is STATUS is a store. -/
theorem State.hostWriteReg_store (hb : s.busy = false) {a : BitVec 8} (hs : regAt a ≠ .status) (hc : regAt a ≠ .ctrl)
    (ht : regAt a ≠ .testUop) (v : Word) : s.hostWriteReg a v = .next (s.storeReg (regAt a) v) := by
  rw [State.hostWriteReg_idle hb hs]
  unfold State.writeRegIdle
  split
  · contradiction
  · contradiction
  · rfl

theorem State.hostWriteReg_isStored (hb : s.busy = false) {a : BitVec 8} (h : (regAt a).isStored = true) (v : Word) :
    s.hostWriteReg a v = .next (s.storeReg (regAt a) v) := by
  refine State.hostWriteReg_store hb ?_ ?_ ?_ v <;> intro hr <;> rw [hr] at h <;> cases h

/-- A host read of a register that is not UNSPECIFIED. -/
theorem State.hostReadReg_of_written {a : BitVec 8} (h : regAt a ∉ s.unwritten) :
    s.hostReadReg a = s.reply (s.regValue (regAt a)) := by
  rw [State.hostReadReg, if_neg h]

end Sys2Proof.Machine
end

section
/-! The words in which the host reads STATUS and RESULTS_WORDS, bit by bit and as a number (rules R37, R39). -/
namespace Sys2Proof.Machine

theorem getLsbD_flagWord (b : Bool) (k : Nat) : (flagWord b).getLsbD k = (b && decide (k = 0)) := by
  cases b
  · simp [flagWord]
  · simp [flagWord, BitVec.getLsbD_one]

/-- STATUS bit by bit: the flags in bits 0 to 2, ERRCODE from bit 4 on. -/
theorem State.getLsbD_statusWord (s : State) {k : Nat} (hk : k < 32) :
    s.statusWord.getLsbD k = ((s.busy && decide (k = 0)) || (s.done && decide (k = 1)) || (s.err && decide (k = 2))
      || (!decide (k < 4) && s.errCode.getLsbD (k - 4))) := by
  have hshift : ∀ (b : Bool) (n : Nat), (flagWord b <<< n).getLsbD k = (b && decide (k = n)) := by
    intro b n
    rw [BitVec.getLsbD_shiftLeft, getLsbD_flagWord]
    by_cases h : k < n
    · simp [h, show k ≠ n by omega]
    · simp [hk, h, show k - n = 0 ↔ k = n by omega]
  simp only [State.statusWord, BitVec.getLsbD_or, hshift, getLsbD_flagWord, BitVec.getLsbD_shiftLeft,
    BitVec.getLsbD_setWidth]
  simp [hk, show k - 4 < 32 by omega]

/-- RESULTS_WORDS saturates at 0xFFFFFFFF (rule R39). -/
theorem State.toNat_resultsWordsReg (s : State) :
    s.resultsWordsReg.toNat = min s.params.resultsWords.val 0xFFFFFFFF := by
  have := s.params.resultsWords.isLt
  unfold State.resultsWordsReg
  split
  · rename_i h
    rw [h]
    rfl
  · rw [BitVec.toNat_ofNat]
    omega

end Sys2Proof.Machine
end

section
/-! The statements about the host's accesses of REG and RES. -/
namespace Sys2Proof.Machine

/-- Settles O35: STATUS read bit by bit. -/
theorem statusReadLayout : Obligations.StatusReadLayout := by
  intro s hs
  have hread := State.hostReadReg_of_written (a := 0x01) hs
  refine ⟨s.statusWord, congrArg Host.Outcome.next hread, ?_, ?_, ?_, ?_, ?_, ?_⟩
  iterate 4
    rw [s.getLsbD_statusWord (by decide)]
    simp
  · refine BitVec.eq_of_getLsbD_eq fun k hk => ?_
    rw [BitVec.getLsbD_extractLsb', s.getLsbD_statusWord (by omega)]
    simp [hk, show 4 + k ≠ 1 by omega, show 4 + k ≠ 2 by omega]
  · refine BitVec.eq_of_getLsbD_eq fun k hk => ?_
    rw [BitVec.getLsbD_extractLsb', s.getLsbD_statusWord (by omega), BitVec.getLsbD_of_ge _ (8 + k - 4) (by omega)]
    simp [show 8 + k ≠ 1 by omega, show 8 + k ≠ 2 by omega]

section Res

variable {s : State} {a : Nat}

theorem State.hostReadRes_outOfRange (ha : s.params.resultsWords.val ≤ a) :
    s.hostReadRes a = (s.raise errResultsOutOfBounds).reply 0 := if_neg (Nat.not_lt.mpr ha)

theorem State.hostWriteRes_outOfRange (hb : s.busy = false) (ha : s.params.resultsWords.val ≤ a) (v : Word) :
    s.hostWriteRes a v = s.raise errResultsOutOfBounds := by
  rw [State.hostWriteRes, hb, if_neg Bool.false_ne_true, if_neg (Nat.not_lt.mpr ha)]

/-- A host read of RES in range returns the word of one of the two memories that it can see (log 8). -/
theorem State.hostReadRes_inRange (ha : a < s.params.resultsWords.val) :
    s.hostReadRes a = s.reply ((s.visibleRes.read a).getD (Config.freeWord s.tick)) := if_pos ha

end Res

/-- Settles O37: the range check fails. -/
theorem resOutOfRange : Obligations.ResOutOfRange := fun _ _ v ha =>
  ⟨congrArg Host.Outcome.next (State.hostReadRes_outOfRange ha),
    fun hb => congrArg Host.Outcome.next (State.hostWriteRes_outOfRange hb ha v)⟩

/-- Settles O38: `Memory.read_write` at the address and elsewhere, and what an idle read of RES returns. -/
theorem resWriteThenRead : Obligations.ResWriteThenRead := by
  intro s a v hb ha
  refine ⟨fun hwf => ⟨_, congrArg Host.Outcome.next (State.hostWriteRes_idle hb ha v), ?_, fun b hne => ?_, rfl⟩,
    fun hread => ?_, fun hread => ?_⟩
  · refine congrArg Host.Outcome.next ((State.hostReadRes_idle (s := { s with res := s.res.write a v }) hb ha).trans ?_)
    rw [Memory.read_write hwf, if_pos rfl, Option.getD_some]
  · exact (Memory.read_write hwf a b v).trans (if_neg hne.symm)
  · exact congrArg Host.Outcome.next ((State.hostReadRes_idle hb ha).trans (by rw [hread, Option.getD_some]))
  · exact congrArg Host.Outcome.next ((State.hostReadRes_idle hb ha).trans (by rw [hread, Option.getD_none]))

/-- Settles O39: one case for either value of the free choice. -/
theorem racingReadIsOldOrNew : Obligations.RacingReadIsOldOrNew := by
  intro s a v w hb ha hold hnew
  simp only [State.hostEvent, State.hostReadRes_inRange ha, State.visibleRes, hb, Bool.true_and]
  cases Config.raceReadsOld s.tick with
  | true => left; rw [if_pos rfl, hold, Option.getD_some]
  | false => right; rw [if_neg Bool.false_ne_true, hnew, Option.getD_some]

/-- Settles O40: the write is a store into the register of the map. -/
theorem registerWriteThenRead : Obligations.RegisterWriteThenRead := by
  intro s a v hb ha
  have hr := isStored_regAt a ha
  have hself := State.regValue_storeReg_self (s := s) hr v
  refine ⟨s.storeReg (regAt a) v, State.hostWriteReg_isStored hb hr v, ?_, congrArg Host.Outcome.next ?_,
    fun q hq => State.regValue_storeReg_of_ne hq v, State.mem_unwritten_storeReg hr v, s.storeReg_eq_with (regAt a) v⟩
  · have hrow := (s.storeReg (regAt a) v).mapRow_regAt a
    rwa [hself] at hrow
  · rw [State.hostReadReg_of_written (fun h => ((State.mem_unwritten_storeReg hr v _).mp h).2 rfl), hself]

/-- Settles O41: a store into a register that holds nothing the host can write changes nothing. -/
theorem reservedAndReadOnlyWritesIgnored : Obligations.ReservedAndReadOnlyWritesIgnored := by
  intro s a v hb
  refine ⟨fun ha => ?_, fun ha => ?_⟩
  · obtain ⟨hr, hstatus, hctrl, htest⟩ := isStored_regAt_readOnly a ha
    exact (State.hostWriteReg_store hb hstatus hctrl htest v).trans
      (congrArg Host.Outcome.next (State.storeReg_of_not_isStored hr v))
  · have hr := regAt_reserved a ha
    refine ⟨?_, fun hw => congrArg Host.Outcome.next ?_⟩
    · refine (State.hostWriteReg_store hb ?_ ?_ ?_ v).trans ?_
      iterate 3 rw [hr]; exact Reg.noConfusion
      rw [hr]
      rfl
    · rw [State.hostReadReg_of_written (hr ▸ hw), hr]
      rfl

/-- Settles O42: the word is the free draw or the register's value, and the map says which register that is. -/
theorem registerReads : Obligations.RegisterReads := by
  intro s a
  refine ⟨_, rfl, fun h => if_pos h, fun h => ?_, fun h ha => ?_, fun h ha => ?_, fun h ha => ?_⟩
  · rw [if_neg h]
    exact s.mapRow_regAt a
  · rw [if_neg h]
    rcases ha with rfl | rfl <;> rfl
  · rw [if_neg h, ha]
    exact s.toNat_resultsWordsReg
  · rw [if_neg h, ha]
    rfl

/-- Settles O43: BUSY is looked at first, then bit 0, then whether the slots fit. -/
theorem startChecksThenLaunches : Obligations.StartChecksThenLaunches := by
  intro s v
  have hidle : s.busy = false → s.hostEvent (.writeReg 0x00 v) = .next (if v.getLsbD 0 then s.start else s) :=
    fun hb => State.hostWriteReg_idle hb (a := 0x00) (by decide) v
  refine ⟨fun hb _ => State.hostWriteReg_busy hb (a := 0x00) (by decide) v, fun hb hv => ?_, fun hb hv hsmall => ?_,
    fun hb hv hfits => ?_⟩
  · rw [hidle hb, hv, if_neg Bool.false_ne_true]
  · rw [hidle hb, hv, if_pos rfl, State.start_of_tooSmall hsmall]
  · rw [hidle hb, hv, if_pos rfl, State.start_of_fits hfits]
    refine ⟨_, rfl, rfl, by simp, fun i hi => ⟨LaneExec.launched s.tick i, by simp [hi], ?_, rfl, rfl⟩⟩
    exact BitVec.toNat_ofNat i 32 ▸ Nat.mod_eq_of_lt (hi.trans s.launchWidth.isLt)

end Sys2Proof.Machine
end

section
/-! The statements about which agent moves and what its step is (rules R151, R160, R163, R194). -/
namespace Sys2Proof.Machine

/-- Settles O45: the controller is the only agent that can move. -/
theorem completionStep : Obligations.CompletionStep := by
  intro s hb hl hi
  have hpick : s.pick = some .controller := by simp [State.pick, State.enabled, State.dispatchAgents, hb, hl, hi]
  rw [step_of_pick hpick]
  rfl

/-- While BUSY = 0 the step is the host's next access. -/
theorem step_idle_host {s : State} (hb : s.busy = false) {e : HostEvent} {rest : List HostEvent}
    (hi : s.inbox = e :: rest) : step s = State.hostEvent { s with inbox := rest, tick := s.tick + 1 } e :=
  step_host (by rw [State.pick_idle hb, hi]; rfl) hi

/-- Settles O46: the write reaches the decoder, whose two answers are the two cases. -/
theorem testUopStepRunsInstruction : Obligations.TestUopStepRunsInstruction := by
  intro s v rest hb hi
  have hidle := State.hostWriteReg_idle (s := { s with inbox := rest, tick := s.tick + 1 }) hb (a := 0x04) (by decide) v
  have hstep : step s = State.runTestUop { s with inbox := rest, tick := s.tick + 1 } v :=
    (step_idle_host hb hi).trans hidle
  rw [hstep]
  unfold State.runTestUop
  refine ⟨fun i hv => by rw [hv], fun hv => ?_⟩
  split
  · rename_i i hi
    exact absurd hi (hv i)
  · rfl

/-- Settles O47: the ROM word at upc is fetched and executed. -/
theorem laneStepRunsRomInstruction : Obligations.LaneStepRunsRomInstruction := by
  intro s i l w op hpick hl hw hd
  rw [step_of_pick hpick]
  exact State.laneStep_of_rom (s := s.nextTick) hl hw hd

/-- Settles O48: with no access pending no agent can move; with one the host moves. -/
theorem hostStepTakesNextAccess : Obligations.HostStepTakesNextAccess := by
  intro s
  refine ⟨fun hb hi => step_of_idle (by rw [State.pick_idle hb, if_pos hi]), fun e rest hi h => ?_⟩
  rcases h with hb | hpick
  · exact step_idle_host hb hi
  · exact step_host hpick hi

end Sys2Proof.Machine
end

section
/-! The statements about reset (rules R49, R210). -/
namespace Sys2Proof.Machine

theorem Reg.mem_unspecifiedAtReset (r : Reg) : r ∈ Reg.unspecifiedAtReset ↔
    r ∈ [.launchWidth, .testLaneIndex, .baseNonceLo, .baseNonceHi, .laneCount, .patternValue, .patternType,
      .patternLength, .patternReserved, .testNonceLo, .testNonceHi]
    ∨ (∃ k, r = .testIn k) ∨ (∃ k, r = .testDig k) ∨ ∃ k, r = .testS k := by
  cases r <;> simp [Reg.unspecifiedAtReset]

/-- Settles O49: the marks are the table's; the rest is read off the state after reset. -/
theorem resetValues : Obligations.ResetValues := ⟨rfl, rfl, rfl, rfl, Reg.mem_unspecifiedAtReset⟩

/-- STATUS after a reset, with any parameters and at any tick. -/
theorem State.statusWord_afterReset (params : Params) (tick : Nat) : (State.afterReset params tick).statusWord = 0 := by
  simp [State.statusWord, State.afterReset, flagWord]

/-- Settles O50: the reset event's next state is the state after reset with the model's own fields kept. -/
theorem resetEventDiscardsDispatch : Obligations.ResetEventDiscardsDispatch := fun s =>
  ⟨s.resetEngine, rfl, State.statusWord_afterReset s.params s.tick, rfl, rfl, rfl, rfl, rfl, rfl, rfl, rfl⟩

/-- After a reset, with any parameters and at any tick, the machine meets the invariant. -/
theorem State.Inv.afterReset (params : Params) (tick : Nat) : (State.afterReset params tick).Inv where
  resWf := List.Pairwise.nil
  resBound := fun _ h => absurd h List.not_mem_nil
  startWf := List.Pairwise.nil
  startBound := fun _ h => absurd h List.not_mem_nil
  codeZero := ⟨fun _ => rfl, fun _ => rfl⟩
  codeRange := Nat.zero_le 4
  marks := fun _ h => h
  idle := fun _ => rfl
  inFlight := fun h => absurd h Bool.false_ne_true

/-- Settles O51: the parameters of logs 5 and 6, at tick 0. -/
theorem resetMeetsInvariant : Obligations.ResetMeetsInvariant := State.Inv.afterReset _ _

end Sys2Proof.Machine
end

section
/-! A micro-op on the test unit, in the forms of `exec_forms` (rules R22, R23, R45): there is no upc to move. -/
namespace Sys2Proof.Machine

variable {s : State}

theorem State.setUnit_of_test (hr : s.running = .test) (u : LaneUnit) : s.setUnit u = { s with test := u } := by
  unfold State.setUnit
  split
  · rfl
  · simp_all

theorem State.markUnit_of_test (hr : s.running = .test) (p : Reg → Bool) : s.markUnit p = s.markWritten p := by
  simp only [State.markUnit, hr]

theorem State.setUpc_of_test (hr : s.running = .test) (n : BitVec 4) : s.setUpc n = s := by
  simp only [State.setUpc, hr]

theorem State.guardBranch_of_test (hr : s.running = .test) (b : Bool) : s.guardBranch b = s := by
  rw [State.guardBranch, State.setUpc_of_test hr, State.advance_of_test hr, ite_self]

theorem State.updateUnit_of_test (hr : s.running = .test) (f : LaneUnit → LaneUnit) (p : Reg → Bool) :
    s.updateUnit f p = .next (State.markWritten { s with test := f s.test } p) := by
  have hset := State.setUnit_of_test hr (f s.test)
  rw [State.updateUnit, State.onUnit_of_unit (State.unit?_test hr), State.markUnit_of_test (by rw [hset, hr]), hset]
  exact congrArg Host.Outcome.next (State.advance_of_test hr)

theorem exec_guard_of_test (hr : s.running = .test) :
    exec .guard s = .next { s with test := { s.test with inactive := guardFlag s.test.laneIndex s.laneCount } } := by
  rw [exec, execGuard, State.onUnit_of_unit (State.unit?_test hr), State.setUnit_of_test hr]
  refine congrArg Host.Outcome.next (State.guardBranch_of_test ?_ _)
  exact hr

theorem State.packRecord_running (s : State) (u : LaneUnit) : (s.packRecord u).running = s.running := by
  unfold State.packRecord
  split <;> rfl

theorem exec_pack_of_test (hr : s.running = .test) :
    exec .pack s = .next (if s.test.inactive then s else s.packRecord s.test) := by
  rw [exec_pack_of_unit (State.unit?_test hr), State.advance_of_test]
  split
  · exact hr
  · rw [State.packRecord_running, hr]

theorem exec_halt_of_test (hr : s.running = .test) : exec .halt s = .next s := by
  rw [exec_halt_of_unit (State.unit?_test hr), State.endLane_of_test hr]

end Sys2Proof.Machine
end

section
/-! Everything a micro-op on the test unit, a lane step, a host access and a step of the machine can do, each said
once. -/
namespace Sys2Proof.Machine

/-- The four error codes of rule R181. -/
def IsErrorCode (c : BitVec 4) : Prop := 1 ≤ c.toNat ∧ c.toNat ≤ 4

/-- What a micro-op can do on the test unit: give it new registers and take UNSPECIFIED marks off, set INACTIVE, write
its record into a slot that fits, or raise an error. -/
inductive TestEffect (s : State) : State → Prop
  | updated (u : LaneUnit) (p : Reg → Bool) : TestEffect s (State.markWritten { s with test := u } p)
  | guarded (b : Bool) : TestEffect s { s with test := { s.test with inactive := b } }
  | unchanged : TestEffect s s
  | packed (u : LaneUnit) (hfit : slotBase u.laneIndex + 10 ≤ s.params.resultsWords.val) :
      TestEffect s { s with res := Memory.writeWords s.res (slotBase u.laneIndex) u.record }
  | raised (c : BitVec 4) (hc : IsErrorCode c) : TestEffect s (s.raise c)

theorem exec_testEffect {s t : State} (hr : s.running = .test) {i : Instr} (h : exec i s = .next t) :
    TestEffect s t := by
  rcases exec_forms i s with ⟨f, p, hf, -⟩ | hraise | rfl | rfl | rfl
  · rw [hf, State.updateUnit_of_test hr] at h
    injection h with h
    exact h ▸ .updated (f s.test) p
  · rw [hraise] at h
    injection h with h
    exact h ▸ .raised _ (by unfold IsErrorCode; decide)
  · rw [exec_guard_of_test hr] at h
    injection h with h
    exact h ▸ .guarded _
  · rw [exec_pack_of_test hr] at h
    injection h with h
    subst h
    split
    · exact .unchanged
    · by_cases hfit : slotBase s.test.laneIndex + 10 ≤ s.params.resultsWords.val
      · rw [State.packRecord_of_fits hfit]
        exact .packed _ hfit
      · rw [State.packRecord_of_overflow (Nat.not_le.mp hfit)]
        exact .raised _ (by unfold IsErrorCode; decide)
  · rw [exec_halt_of_test hr] at h
    injection h with h
    exact h ▸ .unchanged

/-- What a host access, or the reset event, can do. -/
inductive HostEffect (s : State) (e : HostEvent) : State → Prop
  | replied (v : Word) : HostEffect s e (s.reply v)
  | raisedAndReplied (c : BitVec 4) (hc : IsErrorCode c) (v : Word) : HostEffect s e ((s.raise c).reply v)
  | raised (c : BitVec 4) (hc : IsErrorCode c) : HostEffect s e (s.raise c)
  | acknowledged (v : Word) : HostEffect s e (s.writeStatus v)
  | unchanged : HostEffect s e s
  | started (hb : s.busy = false) (hfits : 10 * s.activeLanes ≤ s.params.resultsWords.val) : HostEffect s e s.start
  | tested (hb : s.busy = false) (i : Instr) {t : State} (h : exec i { s with running := .test } = .next t) :
      HostEffect s e t
  | stored (hb : s.busy = false) (r : Reg) (v : Word) : HostEffect s e (s.storeReg r v)
  | resStored (hb : s.busy = false) (a : Nat) (ha : a < s.params.resultsWords.val) (v : Word) :
      HostEffect s e { s with res := s.res.write a v }
  | reset (he : e = .reset) : HostEffect s e s.resetEngine

theorem State.hostWriteReg_effect {s t : State} {a : BitVec 8} {v : Word} (h : s.hostWriteReg a v = .next t)
    (e : HostEvent) : HostEffect s e t := by
  by_cases hs : regAt a = .status
  · rw [State.hostWriteReg_status hs] at h
    injection h with h
    exact h ▸ .acknowledged v
  cases hb : s.busy with
  | true =>
    rw [State.hostWriteReg_busy hb hs] at h
    injection h with h
    exact h ▸ .raised _ (by unfold IsErrorCode; decide)
  | false =>
    rw [State.hostWriteReg_idle hb hs] at h
    unfold State.writeRegIdle at h
    split at h
    · injection h with h
      subst h
      split
      · by_cases hfits : 10 * s.activeLanes ≤ s.params.resultsWords.val
        · exact .started hb hfits
        · rw [State.start_of_tooSmall (Nat.not_le.mp hfits)]
          exact .raised _ (by unfold IsErrorCode; decide)
      · exact .unchanged
    · unfold State.runTestUop at h
      split at h
      · exact .tested hb _ h
      · injection h with h
        exact h ▸ .raised _ (by unfold IsErrorCode; decide)
    · injection h with h
      exact h ▸ .stored hb _ v

theorem State.hostReadRes_effect (s : State) (a : Nat) (e : HostEvent) : HostEffect s e (s.hostReadRes a) := by
  unfold State.hostReadRes
  split
  · exact .replied _
  · exact .raisedAndReplied _ (by unfold IsErrorCode; decide) 0

theorem State.hostWriteRes_effect (s : State) (a : Nat) (v : Word) (e : HostEvent) :
    HostEffect s e (s.hostWriteRes a v) := by
  unfold State.hostWriteRes
  split
  · exact .raised _ (by unfold IsErrorCode; decide)
  · rename_i hb
    split
    · exact .resStored (Bool.not_eq_true _ ▸ hb) a ‹_› v
    · exact .raised _ (by unfold IsErrorCode; decide)

theorem State.hostEvent_effect {s t : State} {e : HostEvent} (h : s.hostEvent e = .next t) : HostEffect s e t := by
  cases e with
  | readReg a => injection h with h; exact h ▸ .replied _
  | writeReg a v => exact State.hostWriteReg_effect h _
  | readRes a => injection h with h; exact h ▸ s.hostReadRes_effect a _
  | writeRes a v => injection h with h; exact h ▸ s.hostWriteRes_effect a v _
  | reset => injection h with h; exact h ▸ .reset rfl

/-- What a step of the machine can do: nothing, or one agent's step. -/
inductive StepEffect (s : State) : State → Prop
  | idle (hpick : s.pick = none) : StepEffect s s
  | host (hpick : s.pick = some .host) {e : HostEvent} {rest : List HostEvent} (hi : s.inbox = e :: rest) {t : State}
      (h : HostEffect { s with inbox := rest, tick := s.tick + 1 } e t) : StepEffect s t
  | completed (hb : s.busy = true) (hl : s.lanes = []) : StepEffect s s.nextTick.complete
  | lane (hb : s.busy = true) {l : LaneExec} (hl : l ∈ s.lanes) {t : State}
      (h : s.nextTick.laneStep l.unit.laneIndex = .next t) : StepEffect s t

theorem step_effect {s t : State} (h : step s = .next t) : StepEffect s t := by
  cases hpick : s.pick with
  | none =>
    rw [step_of_idle hpick] at h
    injection h with h
    exact h ▸ .idle hpick
  | some a =>
    rcases State.mem_enabled.mp (State.pick_mem hpick) with ⟨rfl, hi⟩ | ⟨hb, ⟨rfl, hl⟩ | ⟨l, hl, rfl⟩⟩
    · obtain ⟨e, rest, hi⟩ := List.exists_cons_of_ne_nil hi
      rw [step_host hpick hi] at h
      exact .host hpick hi (State.hostEvent_effect h)
    · rw [step_of_pick hpick] at h
      injection h with h
      exact h ▸ .completed hb hl
    · rw [step_of_pick hpick] at h
      exact .lane hb hl h

/-- A lane step that answers has fetched a legal word of the ROM and executed it. -/
theorem State.laneStep_next_exec {s t : State} {i : Word} (h : s.laneStep i = .next t) :
    ∃ l op, s.lane? i = some l ∧ (romWord l.upc).map decode = some (.legal op)
      ∧ exec op { s with running := .lane i } = .next t := by
  unfold State.laneStep at h
  split at h
  · cases h
  · rename_i l hl
    split at h
    · rename_i op hop
      exact ⟨l, op, hl, hop, h⟩
    · cases h
    · cases h

end Sys2Proof.Machine
end

section
/-! The parameters are constants (rule R21). -/
namespace Sys2Proof.Machine

variable {s t : State}

theorem State.packRecord_params (s : State) (u : LaneUnit) : (s.packRecord u).params = s.params := by
  unfold State.packRecord
  split <;> rfl

theorem exec_params {i : Instr} (h : exec i s = .next t) : t.params = s.params := by
  rcases exec_forms i s with ⟨f, p, hf, hidx⟩ | hraise | rfl | rfl | rfl
  · obtain ⟨u, -, hst⟩ := State.updateUnit_next (hf.symm.trans h) hidx
    exact hst.params_eq
  · rw [hraise] at h
    injection h with h
    rw [← h, State.raise_params]
  · obtain ⟨u, hu, rfl⟩ := State.onUnit_next h
    have hst := State.guardBranch_unitStep (u' := { u with inactive := guardFlag u.laneIndex s.laneCount }) hu rfl
    exact (hst _).params_eq
  · obtain ⟨u, -, rfl⟩ := State.onUnit_next h
    rw [State.advance_params]
    split
    · rfl
    · exact s.packRecord_params u
  · obtain ⟨u, -, rfl⟩ := State.onUnit_next h
    exact s.endLane_params

theorem State.laneStep_params {i : Word} (h : s.laneStep i = .next t) : t.params = s.params := by
  obtain ⟨_, _, -, -, hexec⟩ := State.laneStep_next_exec h
  exact exec_params (s := { s with running := .lane i }) hexec

theorem State.start_params (s : State) : s.start.params = s.params := by
  unfold State.start
  split <;> rfl

theorem HostEffect.params_eq {e : HostEvent} (h : HostEffect s e t) : t.params = s.params := by
  cases h with
  | started => exact s.start_params
  | tested _ _ h => exact exec_params (s := { s with running := .test }) h
  | stored _ r v => rw [s.storeReg_eq_with r v]
  | _ => rfl

/-- Settles O54: no agent's step writes them, and the reset event keeps them. -/
theorem stepsKeepParameters : Obligations.StepsKeepParameters := by
  intro s t h
  cases step_effect h with
  | idle => rfl
  | host _ _ h => exact h.params_eq
  | completed => rfl
  | lane _ _ h => exact State.laneStep_params (s := s.nextTick) h

end Sys2Proof.Machine
end

section
/-! What keeps the invariant: changes outside what it speaks of, errors, a START, and each access of the host. -/
namespace Sys2Proof.Machine

variable {s t : State}

/-- ERRCODE is 0 exactly when ERR is 0, and never above 4 (rules R37, R181). -/
def State.CodeOk (s : State) : Prop := (s.err = false ↔ s.errCode = 0) ∧ s.errCode.toNat ≤ 4

theorem State.Inv.codeOk (h : s.Inv) : s.CodeOk := ⟨h.codeZero, h.codeRange⟩

theorem State.CodeOk.raise (h : s.CodeOk) {c : BitVec 4} (hc : IsErrorCode c) : (s.raise c).CodeOk := by
  cases herr : s.err with
  | true => rwa [State.raise_of_err herr]
  | false =>
    have hne : c ≠ 0 := by rintro rfl; exact absurd hc.1 (by decide)
    unfold State.CodeOk
    rw [State.raise_err, State.raise_errCode_of_noErr herr]
    exact ⟨iff_of_false Bool.true_eq_false.mp hne, hc.2⟩

theorem State.CodeOk.writeStatus (h : s.CodeOk) (v : Word) : (s.writeStatus v).CodeOk := by
  unfold State.CodeOk
  rw [State.writeStatus_err, State.writeStatus_errCode]
  cases v.getLsbD 2 with
  | true => simp
  | false => simpa [State.CodeOk] using h

/-- `t` differs from `s` at most in DONE, ERR, ERRCODE and the model's own fields. -/
def State.StatusMoves (s t : State) : Prop :=
  t = { s with
    done := t.done, err := t.err, errCode := t.errCode, running := t.running, inbox := t.inbox, replies := t.replies
    tick := t.tick }

/-- A dispatch in flight does not see STATUS's other bits, or the model's own fields. -/
theorem State.DispatchInFlight.statusMoves (hf : s.DispatchInFlight) (h : s.StatusMoves t) : t.DispatchInFlight := by
  rw [h]
  exact ⟨hf.distinct, fun l hl => (hf.progress l hl).congr rfl rfl rfl rfl rfl, hf.fits, hf.pending, hf.packed,
    hf.outside⟩

theorem State.Inv.statusMoves (hI : s.Inv) (h : s.StatusMoves t) (hc : t.CodeOk) : t.Inv where
  resWf := by rw [h]; exact hI.resWf
  resBound := by rw [h]; exact hI.resBound
  startWf := by rw [h]; exact hI.startWf
  startBound := by rw [h]; exact hI.startBound
  codeZero := hc.1
  codeRange := hc.2
  marks := by rw [h]; exact hI.marks
  idle := by rw [h]; exact hI.idle
  inFlight := fun hb => State.DispatchInFlight.statusMoves (hI.inFlight (by rw [h] at hb; exact hb)) h

/-- While BUSY = 0 the invariant speaks of RES, of the error code and of the marks only. -/
structure State.IdleStep (s t : State) : Prop where
  busy : t.busy = false
  lanes : t.lanes = s.lanes
  params : t.params = s.params
  resAtStart : t.resAtStart = s.resAtStart
  marks : ∀ r ∈ t.unwritten, r ∈ s.unwritten
  resWf : s.res.wf → t.res.wf
  resBound : (∀ c ∈ s.res, c.1 < s.params.resultsWords.val) → ∀ c ∈ t.res, c.1 < s.params.resultsWords.val
  code : s.CodeOk → t.CodeOk

theorem State.Inv.idleStep (hI : s.Inv) (hb : s.busy = false) (h : s.IdleStep t) : t.Inv where
  resWf := h.resWf hI.resWf
  resBound := by rw [h.params]; exact h.resBound hI.resBound
  startWf := by rw [h.resAtStart]; exact hI.startWf
  startBound := by rw [h.resAtStart, h.params]; exact hI.startBound
  codeZero := (h.code hI.codeOk).1
  codeRange := (h.code hI.codeOk).2
  marks := fun r hr => hI.marks r (h.marks r hr)
  idle := fun _ => h.lanes.trans (hI.idle hb)
  inFlight := fun hbusy => by rw [h.busy] at hbusy; cases hbusy

theorem State.idleStep_storeReg (hb : s.busy = false) (r : Reg) (v : Word) : s.IdleStep (s.storeReg r v) := by
  cases hr : r.isStored with
  | false =>
    rw [State.storeReg_of_not_isStored hr]
    exact ⟨hb, rfl, rfl, rfl, fun _ h => h, id, id, id⟩
  | true =>
    have hmarks : ∀ q ∈ (s.storeReg r v).unwritten, q ∈ s.unwritten := fun q hq =>
      ((State.mem_unwritten_storeReg hr v q).mp hq).1
    generalize ht : s.storeReg r v = t at hmarks
    have hrest := s.storeReg_eq_with r v
    rw [ht] at hrest
    rw [hrest] at hmarks ⊢
    exact ⟨hb, rfl, rfl, rfl, hmarks, id, id, id⟩

theorem State.idleStep_writeRes (hb : s.busy = false) {a : Nat} (ha : a < s.params.resultsWords.val) (v : Word) :
    s.IdleStep { s with res := s.res.write a v } :=
  ⟨hb, rfl, rfl, rfl, fun _ h => h, fun h => Memory.wf_write h a v,
    fun h => Memory.bound_writeWords (vs := [v]) h ha, id⟩

theorem TestEffect.idleStep (h : TestEffect s t) (hb : s.busy = false) : s.IdleStep t := by
  cases h with
  | updated u p => exact ⟨hb, rfl, rfl, rfl, fun _ h => List.mem_of_mem_filter h, id, id, id⟩
  | guarded b => exact ⟨hb, rfl, rfl, rfl, fun _ h => h, id, id, id⟩
  | unchanged => exact ⟨hb, rfl, rfl, rfl, fun _ h => h, id, id, id⟩
  | packed u hfit =>
    exact ⟨hb, rfl, rfl, rfl, fun _ h => h, fun h => Memory.wf_writeWords h _ _,
      fun h => Memory.bound_writeWords h (by rwa [LaneUnit.length_record]), id⟩
  | raised c hc => exact ⟨hb, rfl, rfl, rfl, fun _ h => h, id, id, fun h => h.raise hc⟩

/-! ### START -/

theorem LaneExec.toNat_launched_laneIndex (tick : Nat) {i : Nat} (hi : i < 2 ^ 32) :
    (LaneExec.launched tick i).unit.laneIndex.toNat = i :=
  (BitVec.toNat_ofNat i 32).trans (Nat.mod_eq_of_lt hi)

/-- A fresh lane execution is where it should be (rule R158). -/
theorem laneProgress_launched {tick i : Nat} (hi : i < s.launchWidth.toNat) :
    LaneProgress s (LaneExec.launched tick i) := by
  have hidx := LaneExec.toNat_launched_laneIndex tick (hi.trans s.launchWidth.isLt)
  have hupc : (LaneExec.launched tick i).upc.toNat = 0 := rfl
  constructor
  case launched => rwa [hidx]
  case atLaunch => exact fun _ => rfl
  case skipped => exact fun h => absurd h Bool.false_ne_true
  all_goals rw [hupc]; simp

/-- A START that is accepted puts a dispatch in flight: nothing is packed yet. -/
theorem State.start_dispatchInFlight (hfits : 10 * s.activeLanes ≤ s.params.resultsWords.val) :
    s.start.DispatchInFlight := by
  have hidx : ∀ i < s.launchWidth.toNat, (LaneExec.launched s.tick i).unit.laneIndex.toNat = i := fun i hi =>
    LaneExec.toNat_launched_laneIndex s.tick (hi.trans s.launchWidth.isLt)
  rw [State.start_of_fits hfits]
  refine ⟨?_, fun l hl => ?_, hfits, fun _ _ _ _ _ => rfl, fun i hi hun => absurd ?_ hun, fun _ _ => rfl⟩
  · simp only [List.map_map]
    refine List.Nodup.map_on (fun i hi j hj h => ?_) List.nodup_range
    rw [← hidx i (List.mem_range.mp hi), ← hidx j (List.mem_range.mp hj)]
    exact congrArg BitVec.toNat h
  · obtain ⟨i, hi, rfl⟩ := List.mem_map.mp hl
    exact laneProgress_launched (List.mem_range.mp hi)
  · have hi : i < s.launchWidth.toNat := Nat.lt_of_lt_of_le hi (Nat.min_le_left _ _)
    exact ⟨_, List.mem_map_of_mem (List.mem_range.mpr hi), hidx i hi, Nat.zero_le 8⟩

theorem State.Inv.start (hI : s.Inv) (hfits : 10 * s.activeLanes ≤ s.params.resultsWords.val) : s.start.Inv := by
  have hf := State.start_dispatchInFlight hfits
  rw [State.start_of_fits hfits] at hf ⊢
  exact ⟨hI.resWf, hI.resBound, hI.resWf, hI.resBound, hI.codeZero, hI.codeRange, hI.marks,
    fun h => absurd h.symm Bool.false_ne_true, fun _ => hf⟩

/-- Every host access, and the reset event, keeps the invariant. -/
theorem HostEffect.inv {e : HostEvent} (h : HostEffect s e t) (hI : s.Inv) : t.Inv := by
  cases h with
  | replied v => exact hI.statusMoves rfl hI.codeOk
  | raisedAndReplied c hc v => exact hI.statusMoves rfl (hI.codeOk.raise hc)
  | raised c hc => exact hI.statusMoves rfl (hI.codeOk.raise hc)
  | acknowledged v => exact hI.statusMoves rfl (hI.codeOk.writeStatus v)
  | unchanged => exact hI
  | started _ hfits => exact hI.start hfits
  | tested hb i h =>
    have hrun : State.Inv { s with running := .test } := hI.statusMoves rfl hI.codeOk
    exact hrun.idleStep hb ((exec_testEffect rfl h).idleStep hb)
  | stored hb r v => exact hI.idleStep hb (State.idleStep_storeReg hb r v)
  | resStored hb a ha v => exact hI.idleStep hb (State.idleStep_writeRes hb ha v)
  | reset =>
    have hreset := State.Inv.afterReset s.params s.tick
    exact hreset.statusMoves rfl hreset.codeOk

end Sys2Proof.Machine
end

section
/-! The whole machine: every step answers, and keeps the invariant (rules R180, R158 to R162). -/
namespace Sys2Proof.Machine

variable {s t : State}

/-- A live lane execution of a state that meets the invariant takes its step. -/
theorem State.Inv.laneStep (hI : s.Inv) (hb : s.busy = true) {i : Word} {l : LaneExec} (hl : s.lane? i = some l) :
    ∃ t, s.laneStep i = .next t ∧ LaneStepped s t i :=
  (hI.inFlight hb).laneStep hI.resWf hI.resBound hl

theorem LaneStepped.inv {i : Word} (h : LaneStepped s t i) (hI : s.Inv) (hb : s.busy = true) : t.Inv := by
  obtain ⟨hf, hwf, hbound, hrest, -⟩ := h
  have hbusy : t.busy = true := by rw [hrest]; exact hb
  refine ⟨hwf, ?_, ?_, ?_, ?_, ?_, ?_, fun h => ?_, fun _ => hf⟩
  · rw [hrest]; exact hbound
  · rw [hrest]; exact hI.startWf
  · rw [hrest]; exact hI.startBound
  · rw [hrest]; exact hI.codeZero
  · rw [hrest]; exact hI.codeRange
  · rw [hrest]; exact hI.marks
  · rw [hbusy] at h; cases h

theorem State.Inv.nextTick (hI : s.Inv) : s.nextTick.Inv := hI.statusMoves rfl hI.codeOk

theorem State.Inv.complete (hI : s.Inv) (hl : s.lanes = []) : s.complete.Inv :=
  ⟨hI.resWf, hI.resBound, hI.startWf, hI.startBound, hI.codeZero, hI.codeRange, hI.marks, fun _ => hl,
    fun h => absurd h Bool.false_ne_true⟩

/-- The step of a live lane execution, as the machine takes it. -/
theorem State.Inv.laneStep_of_mem (hI : s.Inv) (hb : s.busy = true) {l : LaneExec} (hl : l ∈ s.lanes) :
    ∃ t, s.nextTick.laneStep l.unit.laneIndex = .next t ∧ LaneStepped s.nextTick t l.unit.laneIndex :=
  hI.nextTick.laneStep hb (State.lane?_of_mem (s := s.nextTick) (hI.inFlight hb).distinct hl)

/-- Settles O52, agent by agent. -/
theorem stepKeepsInvariant : Obligations.StepKeepsInvariant := by
  intro s t hI h
  cases step_effect h with
  | idle => exact hI
  | host _ _ h => exact h.inv (hI.statusMoves rfl hI.codeOk)
  | completed _ hl => exact hI.nextTick.complete hl
  | lane hb hl h =>
    obtain ⟨t', ht', hst⟩ := hI.laneStep_of_mem hb hl
    rw [h] at ht'
    injection ht' with ht'
    exact (ht' ▸ hst).inv hI.nextTick hb

/-- Every host access answers: a TEST_UOP write finds the test unit, which always exists. -/
theorem State.hostEvent_completes (s : State) (e : HostEvent) : ∃ t, s.hostEvent e = .next t := by
  cases e with
  | writeReg a v =>
    by_cases hs : regAt a = .status
    · exact ⟨_, State.hostWriteReg_status hs v⟩
    cases hb : s.busy with
    | true => exact ⟨_, State.hostWriteReg_busy hb hs v⟩
    | false =>
      simp only [State.hostEvent, State.hostWriteReg_idle hb hs]
      unfold State.writeRegIdle
      split
      · exact ⟨_, rfl⟩
      · unfold State.runTestUop
        split
        · exact everyMicroOpCompletes _ _ _ (State.unit?_test rfl)
        · exact ⟨_, rfl⟩
      · exact ⟨_, rfl⟩
  | _ => exact ⟨_, rfl⟩

/-- Settles O53: the agent that moves is the host, the controller or a live lane execution, and each answers. -/
theorem invariantStateSteps : Obligations.InvariantStateSteps := by
  intro s hI
  cases hpick : s.pick with
  | none => exact ⟨s, step_of_idle hpick⟩
  | some a =>
    rcases State.mem_enabled.mp (State.pick_mem hpick) with ⟨rfl, hi⟩ | ⟨hb, ⟨rfl, hl⟩ | ⟨l, hl, rfl⟩⟩
    · obtain ⟨e, rest, hi⟩ := List.exists_cons_of_ne_nil hi
      rw [step_host hpick hi]
      exact State.hostEvent_completes _ e
    · exact ⟨_, step_of_pick hpick⟩
    · obtain ⟨t, ht, -⟩ := hI.laneStep_of_mem hb hl
      exact ⟨t, (step_of_pick hpick).trans ht⟩

end Sys2Proof.Machine
end

section
/-! A dispatch in flight, step by step (rules R22, R23, R47, R159 to R162, R197): what no step of it changes, and that
every step of it brings it closer to its end. -/
namespace Sys2Proof.Machine

variable {s t : State}

/-- From `s` to `t` only STATUS, the live lane executions, RES and the model's own fields of the moment have changed:
not the parameters, the configuration, the test unit, the marks or the note of RES at START. -/
def State.KeepsConfig (s t : State) : Prop :=
  t = { s with
    busy := t.busy, done := t.done, err := t.err, errCode := t.errCode, lanes := t.lanes, res := t.res
    running := t.running, inbox := t.inbox, replies := t.replies, tick := t.tick }

theorem State.KeepsConfig.trans {u : State} (h : s.KeepsConfig t) (h' : t.KeepsConfig u) : s.KeepsConfig u := by
  unfold State.KeepsConfig at h'
  rw [h] at h'
  exact h'

theorem State.StatusMoves.keepsConfig (h : s.StatusMoves t) : s.KeepsConfig t := by
  unfold State.KeepsConfig
  rw [h]

theorem LaneStepped.keepsConfig {i : Word} (h : LaneStepped s t i) : s.KeepsConfig t := by
  unfold State.KeepsConfig
  rw [h.rest]

/-- While BUSY = 1 a host access other than the reset event changes STATUS at most, and returns a word. -/
theorem HostEffect.statusMoves_of_busy {e : HostEvent} (h : HostEffect s e t) (hb : s.busy = true) (he : e ≠ .reset) :
    s.StatusMoves t ∧ t.inbox = s.inbox := by
  cases h with
  | started hidle => rw [hb] at hidle; cases hidle
  | tested hidle => rw [hb] at hidle; cases hidle
  | stored hidle => rw [hb] at hidle; cases hidle
  | resStored hidle => rw [hb] at hidle; cases hidle
  | reset hreset => exact absurd hreset he
  | _ => exact ⟨rfl, rfl⟩

/-- A step of a dispatch in flight other than the reset event, in its three forms: a host access, which takes one access
off the list; the completion step; a lane step. -/
inductive DispatchStep (s : State) : State → Prop
  | host {e : HostEvent} {rest : List HostEvent} (hi : s.inbox = e :: rest) {t : State} (h : s.StatusMoves t)
      (hrest : t.inbox = rest) : DispatchStep s t
  | completed (hl : s.lanes = []) : DispatchStep s s.nextTick.complete
  | lane (i : Word) {t : State} (h : LaneStepped s.nextTick t i) : DispatchStep s t

/-- While BUSY = 1 some agent can always move. -/
theorem State.enabled_ne_nil (hb : s.busy = true) : s.enabled ≠ [] := by
  cases hl : s.lanes with
  | nil => exact List.ne_nil_of_mem (State.mem_enabled.mpr (.inr ⟨hb, .inl ⟨rfl, hl⟩⟩))
  | cons l ls =>
    exact List.ne_nil_of_mem (State.mem_enabled.mpr (.inr ⟨hb, .inr ⟨l, hl ▸ List.mem_cons_self, rfl⟩⟩))

theorem State.Inv.dispatchStep (hI : s.Inv) (hb : s.busy = true)
    (hreset : ¬(s.pick = some .host ∧ s.inbox.head? = some .reset)) (h : step s = .next t) : DispatchStep s t := by
  cases step_effect h with
  | idle hpick =>
    obtain ⟨a, ha⟩ := State.pick_isSome (State.enabled_ne_nil hb)
    rw [hpick] at ha
    cases ha
  | host hpick hi h =>
    obtain ⟨hmoves, hinbox⟩ := h.statusMoves_of_busy hb fun he => hreset ⟨hpick, by rw [hi, he]; rfl⟩
    exact .host hi (by unfold State.StatusMoves; rw [hmoves]) hinbox
  | completed _ hl => exact .completed hl
  | lane _ hl h =>
    obtain ⟨t', ht', hst⟩ := hI.laneStep_of_mem hb hl
    rw [h] at ht'
    injection ht' with ht'
    exact .lane _ (ht' ▸ hst)

theorem DispatchStep.keepsConfig (h : DispatchStep s t) : s.KeepsConfig t := by
  cases h with
  | host _ h => exact h.keepsConfig
  | completed => rfl
  | lane i h =>
    have hmoves : s.KeepsConfig s.nextTick := rfl
    exact hmoves.trans h.keepsConfig

/-- Settles O55: the three forms of such a step. -/
theorem dispatchKeepsConfiguration : Obligations.DispatchKeepsConfiguration := by
  intro s t hI hb hreset h
  rw [(hI.dispatchStep hb hreset h).keepsConfig]
  exact ⟨rfl, rfl, rfl, rfl, rfl, rfl, rfl, rfl, rfl, rfl, rfl⟩

/-- Settles O56: a lane step changes the lane executions, RES and the note of the unit that runs. -/
theorem laneStepsRaiseNothing : Obligations.LaneStepsRaiseNothing := by
  intro s t i hI hb h
  obtain ⟨l, -, hl, -, -⟩ := State.laneStep_next_exec h
  obtain ⟨t', ht', hst⟩ := hI.laneStep hb hl
  rw [h] at ht'
  injection ht' with ht'
  subst ht'
  rw [hst.rest]
  exact ⟨rfl, rfl⟩

/-! ### Completion -/

/-- The steps that can still come before the completion step: lane steps and host accesses. -/
def State.stepsLeft (s : State) : Nat := s.laneStepsLeft + s.inbox.length

/-- With every lane execution ended RES holds the results (rule R161). -/
theorem State.DispatchInFlight.result (hf : s.DispatchInFlight) (hl : s.lanes = []) :
    State.DispatchResult { s with res := s.resAtStart } s.res := by
  have hunpacked : ∀ i, ¬s.unpacked i := by
    rintro i ⟨l, hmem, -⟩
    rw [hl] at hmem
    cases hmem
  exact ⟨fun i hi k hk => hf.packed i hi (hunpacked i) k hk, hf.outside⟩

/-- `t` is where the dispatch in flight in `s` ends. -/
structure State.CompletesIn (s t : State) : Prop where
  busy : t.busy = false
  done : t.done = true
  lanes : t.lanes = []
  result : State.DispatchResult { s with res := s.resAtStart } t.res
  config : s.KeepsConfig t
  /-- Only a host access can raise an error. -/
  code : s.inbox = [] → t.err = s.err ∧ t.errCode = s.errCode

/-- A step of a dispatch in flight completes it, or leaves the same dispatch in flight with fewer steps to come. -/
theorem DispatchStep.completes_or_continues (h : DispatchStep s t) (hI : s.Inv) (hb : s.busy = true) :
    s.CompletesIn t ∨ (t.busy = true ∧ t.inbox ⊆ s.inbox ∧ t.stepsLeft < s.stepsLeft
      ∧ ∀ u, t.CompletesIn u → s.CompletesIn u) := by
  have hconfig := h.keepsConfig
  have hcompletes : (s.inbox = [] → t.inbox = [] ∧ t.err = s.err ∧ t.errCode = s.errCode) →
      ∀ u, t.CompletesIn u → s.CompletesIn u := fun hcode u hu => by
    refine ⟨hu.busy, hu.done, hu.lanes, ?_, hconfig.trans hu.config, fun hi => ?_⟩
    · have := hu.result
      rw [hconfig] at this
      exact this
    · obtain ⟨hinbox, herr, herrCode⟩ := hcode hi
      obtain ⟨herr', herrCode'⟩ := hu.code hinbox
      exact ⟨herr'.trans herr, herrCode'.trans herrCode⟩
  cases h with
  | @host e rest hi t h hrest =>
    have hbusy : t.busy = true := by rw [h]; exact hb
    have hleft : t.laneStepsLeft = s.laneStepsLeft := by rw [h]; rfl
    refine .inr ⟨hbusy, ?_, ?_, hcompletes fun hnil => ?_⟩
    · rw [hrest, hi]
      exact List.subset_cons_self e rest
    · rw [State.stepsLeft, State.stepsLeft, hleft, hrest, hi, List.length_cons]
      omega
    · rw [hi] at hnil
      cases hnil
  | completed hl =>
    exact .inl ⟨rfl, rfl, hl, (hI.inFlight hb).result hl, hconfig, fun _ => ⟨rfl, rfl⟩⟩
  | lane i h =>
    have hbusy : t.busy = true := by rw [h.rest]; exact hb
    have hinbox : t.inbox = s.inbox := by rw [h.rest]; rfl
    have hcode : t.err = s.err ∧ t.errCode = s.errCode := by rw [h.rest]; exact ⟨rfl, rfl⟩
    refine .inr ⟨hbusy, hinbox ▸ List.Subset.refl _, ?_, hcompletes fun hnil => ⟨hinbox.trans hnil, hcode⟩⟩
    have hleft : t.laneStepsLeft < s.laneStepsLeft := h.left
    rw [State.stepsLeft, State.stepsLeft, hinbox]
    omega

/-- A dispatch in flight that no reset discards completes, under every schedule: by induction on the steps left. -/
theorem State.Inv.exists_run_completesIn (hI : s.Inv) (hb : s.busy = true) (hreset : HostEvent.reset ∉ s.inbox) :
    ∃ k t, k ≤ s.stepsLeft + 1 ∧ Host.Core.run core k s = .next t ∧ s.CompletesIn t := by
  generalize hn : s.stepsLeft = n
  induction n using Nat.strong_induction_on generalizing s with
  | _ n ih =>
    obtain ⟨t, ht⟩ := invariantStateSteps s hI
    have hnotReset : ¬(s.pick = some .host ∧ s.inbox.head? = some .reset) := fun h =>
      hreset (List.mem_of_mem_head? h.2)
    rcases (hI.dispatchStep hb hnotReset ht).completes_or_continues hI hb with hdone | ⟨hbusy, hsub, hlt, hmore⟩
    · exact ⟨1, t, by omega, run_succ ht 0, hdone⟩
    · obtain ⟨k, u, hk, hu, hdone⟩ := ih _ (hn ▸ hlt) (stepKeepsInvariant s t hI ht) hbusy
        (fun h => hreset (hsub h)) rfl
      exact ⟨k + 1, u, by omega, (run_succ ht k).trans hu, hmore u hdone⟩

/-- Settles O58: the bound is that of `State.Inv.exists_run_completesIn`. -/
theorem dispatchInFlightCompletes : Obligations.DispatchInFlightCompletes := by
  intro s hI hb hreset
  obtain ⟨k, t, hk, ht, hdone⟩ := hI.exists_run_completesIn hb hreset
  exact ⟨k, t, hk, ht, hdone.busy, hdone.done, hdone.result⟩

/-- Each lane execution launched has ten steps to take. -/
theorem State.laneStepsLeft_start (hfits : 10 * s.activeLanes ≤ s.params.resultsWords.val) :
    s.start.laneStepsLeft = 10 * s.launchWidth.toNat := by
  have hten : ∀ i, ((fun l : LaneExec => 10 - l.upc.toNat) ∘ LaneExec.launched s.tick) i = 10 := fun _ => rfl
  rw [State.start_of_fits hfits, State.laneStepsLeft, List.map_map, List.map_congr_left fun i _ => hten i]
  simp [Nat.mul_comm]

/-- The state after a START, the host's only pending access. -/
def State.startedAlone (s : State) : State := State.start { s with inbox := [], tick := s.tick + 1 }

theorem State.startedAlone_eq (hfits : 10 * s.activeLanes ≤ s.params.resultsWords.val) :
    s.startedAlone = { s with
      done := false, busy := true, lanes := (List.range s.launchWidth.toNat).map (LaneExec.launched (s.tick + 1))
      resAtStart := s.res, inbox := [], tick := s.tick + 1 } := State.start_of_fits hfits

theorem step_startedAlone (hb : s.busy = false) {v : Word} (hi : s.inbox = [.writeReg 0x00 v])
    (hv : v.getLsbD 0 = true) : step s = .next s.startedAlone := by
  have hidle := State.hostWriteReg_idle (s := { s with inbox := [], tick := s.tick + 1 }) hb (a := 0x00) (by decide) v
  exact ((step_idle_host hb hi).trans hidle).trans (congrArg Host.Outcome.next (if_pos hv))

/-- Settles O59: the START's step, then a run to the end of the dispatch it puts in flight. -/
theorem startedDispatchDelivers : Obligations.StartedDispatchDelivers := by
  intro s v hI hb hi hv hfits
  have hstep := step_startedAlone hb hi hv
  have hstart := State.startedAlone_eq hfits
  have hlanes : s.startedAlone.laneStepsLeft = 10 * s.launchWidth.toNat :=
    State.laneStepsLeft_start (s := { s with inbox := [], tick := s.tick + 1 }) hfits
  have hleft : s.startedAlone.stepsLeft = 10 * s.launchWidth.toNat := by
    rw [State.stepsLeft, hlanes, hstart]
    rfl
  obtain ⟨k, t, hk, ht, hbusy, hdone, hlanes, hresult, hconfig, hcode⟩ :=
    (stepKeepsInvariant s _ hI hstep).exists_run_completesIn (by rw [hstart]) (by rw [hstart]; exact List.not_mem_nil)
  rw [hleft] at hk
  rw [hstart] at hresult hconfig hcode
  obtain ⟨herr, herrCode⟩ := hcode rfl
  refine ⟨k + 1, t, by omega, (run_succ hstep k).trans ht, hbusy, hdone, hlanes, hresult, herr, herrCode, ?_⟩
  rw [hconfig]
  exact ⟨rfl, rfl, rfl, rfl, rfl⟩

end Sys2Proof.Machine
end

section
/-! The steps of two lane executions commute (rules R60, R192): each changes its own lane execution and its own slot of
RES. -/
namespace Sys2Proof.Machine

variable {s : State}

/-- Writes of two runs of words that do not overlap can be swapped. -/
theorem Memory.writeWords_comm {m : Memory} (hm : m.wf) {a b : Nat} {vs ws : List Word}
    (h : a + vs.length ≤ b ∨ b + ws.length ≤ a) :
    Memory.writeWords (Memory.writeWords m a vs) b ws = Memory.writeWords (Memory.writeWords m b ws) a vs := by
  have hvs := Memory.wf_writeWords hm a vs
  have hws := Memory.wf_writeWords hm b ws
  refine Memory.ext (Memory.wf_writeWords hvs b ws) (Memory.wf_writeWords hws a vs) fun c => ?_
  rw [Memory.read_writeWords hvs, Memory.read_writeWords hm, Memory.read_writeWords hws, Memory.read_writeWords hm]
  split_ifs
  · omega
  · rfl
  · rfl
  · rfl

/-- What the step of lane execution `i` makes of a lane execution: another one stays, its own goes on, or ends. -/
def laneAfterStep (s : State) (i : Word) (m : LaneExec) : Option LaneExec :=
  if m.unit.laneIndex = i then (if m.upc.toNat ≤ 8 then some (laneNext s m) else none) else some m

theorem laneAfterStep_of_ne {i : Word} {m : LaneExec} (h : m.unit.laneIndex ≠ i) : laneAfterStep s i m = some m :=
  if_neg h

/-- The steps of two different lane executions change different lane executions. -/
theorem laneAfterStep_comm {i j : Word} (hij : i ≠ j) (m : LaneExec) :
    (laneAfterStep s i m).bind (laneAfterStep s j) = (laneAfterStep s j m).bind (laneAfterStep s i) := by
  have hown : ∀ {i j : Word}, i ≠ j → m.unit.laneIndex = i →
      (laneAfterStep s i m).bind (laneAfterStep s j) = laneAfterStep s i m := by
    intro i j hij hi
    rw [laneAfterStep, if_pos hi]
    split
    · rw [Option.bind_some, laneAfterStep_of_ne]
      rw [laneNext_laneIndex, hi]
      exact hij
    · rfl
  by_cases hi : m.unit.laneIndex = i
  · rw [hown hij hi, laneAfterStep_of_ne (i := j) fun hj => hij (hi.symm.trans hj), Option.bind_some]
  · by_cases hj : m.unit.laneIndex = j
    · rw [hown hij.symm hj, laneAfterStep_of_ne hi, Option.bind_some]
    · rw [laneAfterStep_of_ne hi, laneAfterStep_of_ne hj, Option.bind_some, Option.bind_some,
        laneAfterStep_of_ne hi, laneAfterStep_of_ne hj]

/-- The state after the step of lane execution `l`, whose index is `i`. -/
def stateAfterStep (s : State) (i : Word) (l : LaneExec) : State :=
  { s with running := .lane i, lanes := s.lanes.filterMap (laneAfterStep s i), res := laneRes s l }

/-- The slot of a lane execution about to pack its record fits (rule R157). -/
theorem State.DispatchInFlight.slot_fits (hf : s.DispatchInFlight) {l : LaneExec} (hl : l ∈ s.lanes)
    (hu : l.upc.toNat = 8) (hact : l.unit.inactive = false) :
    slotBase l.unit.laneIndex + 10 ≤ s.params.resultsWords.val := by
  have hlt := (hf.progress l hl).active hact (by omega)
  have hfits := hf.fits
  rw [slotBase]
  omega

/-- The step of a lane execution of a dispatch in flight, HALT's included, as one function of the state. -/
theorem State.DispatchInFlight.laneStep_eq (hf : s.DispatchInFlight) {i : Word} {l : LaneExec}
    (hl : s.lane? i = some l) : s.laneStep i = .next (stateAfterStep s i l) := by
  have hmem := State.lane?_mem hl
  have hidx := State.lane?_laneIndex hl
  have huniq : ∀ m ∈ s.lanes, m.unit.laneIndex = i → m = l := fun m hm h =>
    State.mem_unique hf.distinct hm hmem (h.trans hidx.symm)
  by_cases hu : l.upc.toNat ≤ 8
  · rw [State.laneStep_next hf.distinct hl hu (hf.slot_fits hmem)]
    have hlanes : (s.modifyLane i fun _ => laneNext s l).lanes = s.lanes.filterMap (laneAfterStep s i) := by
      rw [State.modifyLane_lanes, ← List.filterMap_eq_map]
      refine List.filterMap_congr fun m hm => ?_
      by_cases hi : m.unit.laneIndex = i
      · obtain rfl := huniq m hm hi
        simp only [Function.comp_apply, laneAfterStep, if_pos hi, if_pos hu]
      · simp only [Function.comp_apply, laneAfterStep, if_neg hi]
    rw [stateAfterStep, ← hlanes]
    rfl
  · have h9 : l.upc.toNat = 9 := by
      have := (hf.progress l hmem).upcInRom
      omega
    rw [State.laneStep_halt hl h9]
    have hlanes : (s.lanes.filter fun m => m.unit.laneIndex != i) = s.lanes.filterMap (laneAfterStep s i) := by
      rw [← List.filterMap_eq_filter]
      refine List.filterMap_congr fun m hm => ?_
      by_cases hi : m.unit.laneIndex = i
      · obtain rfl := huniq m hm hi
        simp [Option.guard, laneAfterStep, hi, hu]
      · simp [Option.guard, laneAfterStep, hi]
    rw [stateAfterStep, ← hlanes, laneRes, if_neg (by omega)]

/-- RES after the steps of two lane executions: they pack into different slots. -/
theorem laneRes_comm (hwf : s.res.wf) {i j : Word} {l m : LaneExec} (hl : l.unit.laneIndex = i)
    (hm : m.unit.laneIndex = j) (hij : i ≠ j) :
    laneRes (stateAfterStep s i l) m = laneRes (stateAfterStep s j m) l := by
  have hslots : slotBase l.unit.laneIndex + l.unit.record.length ≤ slotBase m.unit.laneIndex
      ∨ slotBase m.unit.laneIndex + m.unit.record.length ≤ slotBase l.unit.laneIndex := by
    have hne : i.toNat ≠ j.toNat := fun h => hij (BitVec.eq_of_toNat_eq h)
    rw [LaneUnit.length_record, LaneUnit.length_record, slotBase, slotBase, hl, hm]
    omega
  simp only [laneRes, stateAfterStep]
  split_ifs
  · exact Memory.writeWords_comm hwf hslots
  · rfl
  · rfl
  · rfl

/-- The state after two lane steps, up to the note of the unit that ran last. -/
theorem stateAfterStep_twice (i j : Word) (l m : LaneExec) :
    { stateAfterStep (stateAfterStep s i l) j m with running := .test }
      = { s with
          running := .test, lanes := (s.lanes.filterMap (laneAfterStep s i)).filterMap (laneAfterStep s j)
          res := laneRes (stateAfterStep s i l) m } := rfl

/-- One lane execution's step, then another's: the second is as it was. -/
theorem State.Inv.laneStep_laneStep (hI : s.Inv) (hb : s.busy = true) {i j : Word} {l m : LaneExec} (hij : i ≠ j)
    (hl : s.lane? i = some l) (hm : s.lane? j = some m) :
    s.laneStep i = .next (stateAfterStep s i l)
      ∧ (stateAfterStep s i l).laneStep j = .next (stateAfterStep (stateAfterStep s i l) j m) := by
  have hstep := (hI.inFlight hb).laneStep_eq hl
  obtain ⟨t, ht, hst⟩ := hI.laneStep hb hl
  rw [hstep] at ht
  injection ht with ht
  subst ht
  have hidx := State.lane?_laneIndex hm
  have hmem : m ∈ (stateAfterStep s i l).lanes :=
    List.mem_filterMap.mpr ⟨m, State.lane?_mem hm, laneAfterStep_of_ne (hidx ▸ hij.symm)⟩
  refine ⟨hstep, hst.flight.laneStep_eq ?_⟩
  rw [← hidx]
  exact State.lane?_of_mem hst.flight.distinct hmem

/-- Settles O57: the two orders change the lane executions and RES alike. -/
theorem laneStepsCommute : Obligations.LaneStepsCommute := by
  intro s i j l m hI hb hij hl hm
  obtain ⟨ha, hab⟩ := hI.laneStep_laneStep hb hij hl hm
  obtain ⟨hb', hba⟩ := hI.laneStep_laneStep hb hij.symm hm hl
  have hres := laneRes_comm hI.resWf (State.lane?_laneIndex hl) (State.lane?_laneIndex hm) hij
  have hlanes : (s.lanes.filterMap (laneAfterStep s i)).filterMap (laneAfterStep s j)
      = (s.lanes.filterMap (laneAfterStep s j)).filterMap (laneAfterStep s i) := by
    rw [List.filterMap_filterMap, List.filterMap_filterMap]
    exact congrArg (List.filterMap · s.lanes) (funext (laneAfterStep_comm hij))
  refine ⟨_, _, _, _, ha, hab, hb', hba, ?_⟩
  rw [stateAfterStep_twice, stateAfterStep_twice, hlanes, hres]

end Sys2Proof.Machine
end

section
/-! States that differ in what their UNSPECIFIED registers hold (rules R49, R213): one state with the data registers of
the other, and what such an exchange commutes with. -/
namespace Sys2Proof.Machine

variable {s s' t d : State}

/-- `s` with the configuration words, the pattern words and the test unit of `d`: all that can be UNSPECIFIED. -/
def State.withData (s d : State) : State :=
  { s with
    launchWidth := d.launchWidth, baseNonceLo := d.baseNonceLo, baseNonceHi := d.baseNonceHi, laneCount := d.laneCount
    patternValue := d.patternValue, patternType := d.patternType, patternLength := d.patternLength
    patternReserved := d.patternReserved, test := d.test }

/-- `t` holds in these words, and in the marks, what `s` does. -/
def State.KeepsData (s t : State) : Prop := t.withData s = t ∧ t.unwritten = s.unwritten

theorem AgreeOnWritten.refl (s : State) : AgreeOnWritten s s := ⟨rfl, fun _ _ => rfl, rfl, rfl⟩

theorem State.regValue_withData_of_mem {r : Reg} (hr : r ∈ Reg.unspecifiedAtReset) :
    (s.withData d).regValue r = d.regValue r := by
  cases r
  case ctrl | status | resultsWords | testUop | testFlags | reserved => simp [Reg.mem_unspecifiedAtReset] at hr
  all_goals rfl

theorem State.regValue_withData_of_not_mem {r : Reg} (hr : r ∉ Reg.unspecifiedAtReset)
    (hi : d.test.inactive = s.test.inactive) : (s.withData d).regValue r = s.regValue r := by
  cases r
  case ctrl | status | resultsWords | testUop | reserved => rfl
  case testFlags => exact congrArg flagWord hi
  all_goals exact absurd (by simp [Reg.mem_unspecifiedAtReset]) hr

/-- It is enough to compare the registers of rule R49's table: the rest of the state gives what the others hold. -/
theorem AgreeOnWritten.of_mem (marks : t.unwritten = s.unwritten) (inactive : t.test.inactive = s.test.inactive)
    (rest : t = s.withData t)
    (values : ∀ r ∈ Reg.unspecifiedAtReset, r ∉ s.unwritten → t.regValue r = s.regValue r) : AgreeOnWritten s t := by
  refine ⟨marks, fun r hr => ?_, inactive, rest⟩
  by_cases hmem : r ∈ Reg.unspecifiedAtReset
  · exact values r hmem hr
  · exact (congrArg (·.regValue r) rest).trans (State.regValue_withData_of_not_mem hmem inactive)

theorem AgreeOnWritten.withData (h : AgreeOnWritten s s') (hk : s.KeepsData t) : AgreeOnWritten t (t.withData s') := by
  obtain ⟨hdata, hmarks⟩ := hk
  refine .of_mem rfl (h.inactive.trans (congrArg (·.test.inactive) hdata)) rfl fun r hmem hr => ?_
  calc (t.withData s').regValue r = s'.regValue r := State.regValue_withData_of_mem hmem
    _ = s.regValue r := h.values r (hmarks ▸ hr)
    _ = (t.withData s).regValue r := (State.regValue_withData_of_mem hmem).symm
    _ = t.regValue r := congrArg (·.regValue r) hdata

/-- An update that neither reads nor writes the data registers keeps the agreement. -/
theorem AgreeOnWritten.map (h : AgreeOnWritten s s') (f : State → State)
    (hf : f (s.withData s') = (f s).withData s') (hk : s.KeepsData (f s)) : AgreeOnWritten (f s) (f s') := by
  have : f s' = (f s).withData s' := (congrArg f h.rest).trans hf
  rw [this]
  exact h.withData hk

/-! ### A micro-op on a dispatch lane unit -/

section Lane

variable {i : Word}

theorem State.setUnit_of_lane (hr : s.running = .lane i) (u : LaneUnit) :
    s.setUnit u = s.modifyLane i fun l => { l with unit := u } := by
  simp only [State.setUnit, hr]

theorem State.markUnit_of_lane (hr : s.running = .lane i) (p : Reg → Bool) : s.markUnit p = s := by
  simp only [State.markUnit, hr]

theorem State.advance_eq_modifyLane (hr : s.running = .lane i) :
    s.advance = s.modifyLane i fun l => { l with upc := l.upc + 1 } := by
  simp only [State.advance, hr]

theorem State.guardBranch_of_lane (hr : s.running = .lane i) (b : Bool) :
    s.guardBranch b = s.modifyLane i fun l => { l with upc := if b then 9 else l.upc + 1 } := by
  cases b <;> simp [State.guardBranch, State.setUpc, State.advance, hr]

/-- On a dispatch lane unit an update of its registers is one of the lane executions. -/
theorem State.updateUnit_of_lane_eq (hr : s.running = .lane i) (f : LaneUnit → LaneUnit) (p : Reg → Bool) :
    s.updateUnit f p = s.onUnit fun u => (s.modifyLane i fun l => { l with unit := f u }).modifyLane i
      fun l => { l with upc := l.upc + 1 } := by
  unfold State.updateUnit
  congr 1
  funext u
  rw [State.setUnit_of_lane hr, State.markUnit_of_lane (i := i), State.advance_eq_modifyLane (i := i)]
  all_goals exact hr

theorem exec_guard_of_lane (hr : s.running = .lane i) :
    exec .guard s = s.onUnit fun u =>
      (s.modifyLane i fun l => { l with unit := { u with inactive := guardFlag u.laneIndex s.laneCount } }).modifyLane i
        fun l => { l with upc := if guardFlag u.laneIndex s.laneCount then 9 else l.upc + 1 } := by
  rw [exec, execGuard]
  congr 1
  funext u
  rw [State.setUnit_of_lane hr, State.guardBranch_of_lane (i := i)]
  exact hr

theorem exec_pack_of_lane (hr : s.running = .lane i) :
    exec .pack s = s.onUnit fun u => (if u.inactive then s else s.packRecord u).modifyLane i
      fun l => { l with upc := l.upc + 1 } := by
  rw [exec, execPack]
  congr 1
  funext u
  rw [State.advance_eq_modifyLane (i := i)]
  split
  · exact hr
  · rw [State.packRecord_running, hr]

/-- The exchange of the data registers does not touch the lane units, nor they it. -/
theorem State.onUnit_withData (hr : s.running = .lane i) {k k' : LaneUnit → State}
    (hk : ∀ u, k' u = (k u).withData d ∧ s.KeepsData (k u)) (h : s.onUnit k = .next t) :
    (s.withData d).onUnit k' = .next (t.withData d) ∧ s.KeepsData t := by
  obtain ⟨u, hu, rfl⟩ := State.onUnit_next h
  have hu' : (s.withData d).unit? = some u := by
    rw [State.unit?_lane hr] at hu
    exact (State.unit?_lane (s := s.withData d) (i := i) hr).trans hu
  rw [State.onUnit_of_unit hu', (hk u).1]
  exact ⟨rfl, (hk u).2⟩

theorem State.packRecord_withData (s d : State) (u : LaneUnit) :
    (s.withData d).packRecord u = (s.packRecord u).withData d ∧ s.KeepsData (s.packRecord u) := by
  by_cases hfit : slotBase u.laneIndex + 10 ≤ s.params.resultsWords.val
  · rw [State.packRecord_of_fits hfit, State.packRecord_of_fits (s := s.withData d) hfit]
    exact ⟨rfl, rfl, rfl⟩
  · have hover := Nat.not_le.mp hfit
    rw [State.packRecord_of_overflow hover, State.packRecord_of_overflow (s := s.withData d) hover]
    exact ⟨rfl, rfl, rfl⟩

/-- A micro-op on a dispatch lane unit does the same whatever the data registers hold that it does not read. -/
theorem exec_withData_of_lane (hr : s.running = .lane i) {op : Instr}
    (hcount : Instr.reads false op .laneCount = true → d.laneCount = s.laneCount)
    (hlo : Instr.reads false op .baseNonceLo = true → d.baseNonceLo = s.baseNonceLo)
    (hhi : Instr.reads false op .baseNonceHi = true → d.baseNonceHi = s.baseNonceHi) (h : exec op s = .next t) :
    exec op (s.withData d) = .next (t.withData d) ∧ s.KeepsData t := by
  have hr' : (s.withData d).running = .lane i := hr
  have hupdate : ∀ {f p}, s.updateUnit f p = .next t →
      (s.withData d).updateUnit f p = .next (t.withData d) ∧ s.KeepsData t := fun h => by
    rw [State.updateUnit_of_lane_eq hr] at h
    rw [State.updateUnit_of_lane_eq hr']
    refine State.onUnit_withData hr ?_ h
    exact fun _ => ⟨rfl, rfl, rfl⟩
  rcases exec_kinds op with ⟨f, p, hop, -⟩ | hraise | rfl | rfl | rfl | rfl
  · rw [hop.exec_eq] at h ⊢
    exact hupdate h
  · rw [hraise] at h ⊢
    injection h with h
    subst h
    exact ⟨rfl, rfl, rfl⟩
  · have heq : exec .nonce (s.withData d)
        = (s.withData d).updateUnit (LaneUnit.deriveNonce s.baseNonceLo s.baseNonceHi) Reg.isNonce := by
      rw [← hlo rfl, ← hhi rfl]
      rfl
    rw [heq]
    exact hupdate h
  · rw [exec_guard_of_lane hr] at h
    rw [exec_guard_of_lane hr', show (s.withData d).laneCount = s.laneCount from hcount rfl]
    refine State.onUnit_withData hr ?_ h
    exact fun _ => ⟨rfl, rfl, rfl⟩
  · rw [exec_pack_of_lane hr] at h
    rw [exec_pack_of_lane hr']
    refine State.onUnit_withData hr (fun u => ?_) h
    cases u.inactive with
    | true => exact ⟨rfl, rfl, rfl⟩
    | false =>
      obtain ⟨hrec, hdata, hmarks⟩ := s.packRecord_withData d u
      simp only [Bool.false_eq_true, if_false, hrec]
      refine ⟨rfl, ?_, hmarks⟩
      conv_rhs => rw [← hdata]
      rfl
  · refine State.onUnit_withData hr (fun u => ?_) h
    rw [State.endLane_of_lane hr, State.endLane_of_lane hr']
    exact ⟨rfl, rfl, rfl⟩

end Lane

end Sys2Proof.Machine
end

section
/-! One step from two states that differ in what their UNSPECIFIED registers hold, where it reads none of them (rule
R213): a micro-op on the test unit, a host access, and the step of any agent. -/
namespace Sys2Proof.Machine

variable {s s' t : State}

/-! ### A micro-op on the test unit -/

theorem AgreeOnWritten.agreesOn (h : AgreeOnWritten s s') : s.test.AgreesOn s'.test (· ∉ s.unwritten) :=
  ⟨fun k hk => h.values (.testS k) hk, fun k hk => h.values (.testIn k) hk, fun k hk => h.values (.testDig k) hk,
    h.values .testNonceLo, h.values .testNonceHi, h.values .testLaneIndex, h.inactive⟩

/-- The test unit takes new registers, which agree where it agreed before and where they are written. -/
theorem AgreeOnWritten.setTest (h : AgreeOnWritten s s') {u v : LaneUnit} {p : Reg → Bool}
    (hp : ∀ r, p r = true → r.isUnit = true) (huv : u.AgreesOn v fun r => r ∉ s.unwritten ∨ p r = true) :
    AgreeOnWritten (State.markWritten { s with test := u } p) (State.markWritten { s' with test := v } p) := by
  refine .of_mem (congrArg (List.filter _) h.marks) huv.inactive ?_ fun r hmem hr => ?_
  · rw [h.rest]
    rfl
  have hr' : r ∉ s.unwritten ∨ p r = true := by
    rw [State.markWritten_unwritten, List.mem_filter, not_and_or] at hr
    exact hr.imp_right fun h => by simpa using h
  have hconfig : r.isUnit = false → s'.regValue r = s.regValue r := fun hno =>
    h.values r (hr'.resolve_right fun hpr => by rw [hp r hpr] at hno; cases hno)
  cases r
  case testS k => exact huv.S k hr'
  case testIn k => exact huv.IN k hr'
  case testDig k => exact huv.DIG k hr'
  case testNonceLo => exact huv.nonceLo hr'
  case testNonceHi => exact huv.nonceHi hr'
  case testLaneIndex => exact huv.laneIndex hr'
  case ctrl | status | resultsWords | testUop | testFlags | reserved => simp [Reg.mem_unspecifiedAtReset] at hmem
  all_goals exact hconfig rfl

theorem State.markWritten_none (s : State) : s.markWritten (fun _ => false) = s := by
  simp [State.markWritten]

/-- The record that PACK writes is made of NONCE and DIG, and its place of LANE_INDEX. -/
theorem State.packRecord_congr (s : State) {u v : LaneUnit} (hi : v.laneIndex = u.laneIndex)
    (hrec : v.record = u.record) : s.packRecord v = s.packRecord u := by
  unfold State.packRecord
  rw [hi, hrec]

/-- A micro-op on the test unit that reads no UNSPECIFIED register, from two such states. -/
theorem AgreeOnWritten.exec_test (h : AgreeOnWritten s s') (hr : s.running = .test) {op : Instr}
    (hreads : ∀ r, Instr.reads s.test.inactive op r = true → r ∉ s.unwritten) (hex : exec op s = .next t) :
    ∃ t', exec op s' = .next t' ∧ AgreeOnWritten t t' := by
  have hr' : s'.running = .test := by rw [h.rest]; exact hr
  have hparams : s'.params = s.params := by rw [h.rest]
  have hu := h.agreesOn
  rcases exec_kinds op with ⟨f, p, hop, hreadsOnly⟩ | hraise | rfl | rfl | rfl | rfl
  · rw [hop.exec_eq, State.updateUnit_of_test hr] at hex
    injection hex with hex
    subst hex
    have hfun : f s'.params.wordOrder = f s.params.wordOrder := by rw [hparams]
    rw [hop.exec_eq, State.updateUnit_of_test hr', hfun]
    have hf := hreadsOnly s.params.wordOrder s.test.inactive
    exact ⟨_, rfl, h.setTest hf.isUnit (hf.agrees hreads hu)⟩
  · rw [hraise] at hex
    injection hex with hex
    subst hex
    exact ⟨_, hraise s', h.map (State.raise · errIllegalUop) rfl ⟨rfl, rfl⟩⟩
  · rw [exec, execNonce, State.updateUnit_of_test hr] at hex
    injection hex with hex
    subst hex
    refine ⟨_, State.updateUnit_of_test hr' _ _, h.setTest Reg.isUnit_of_isNonce ?_⟩
    have hlo : s'.baseNonceLo = s.baseNonceLo := h.values .baseNonceLo (hreads _ rfl)
    have hhi : s'.baseNonceHi = s.baseNonceHi := h.values .baseNonceHi (hreads _ rfl)
    have hnonce : s'.test.deriveNonce s'.baseNonceLo s'.baseNonceHi = { s'.test with
        nonceLo := nonceLow s.baseNonceLo s.test.laneIndex
        nonceHi := nonceHigh s.baseNonceLo s.baseNonceHi s.test.laneIndex } := by
      simp only [LaneUnit.deriveNonce, hlo, hhi, hu.laneIndex (hreads _ rfl)]
    rw [hnonce]
    exact hu.setNonce _ _
  · rw [exec_guard_of_test hr] at hex
    injection hex with hex
    subst hex
    refine ⟨_, exec_guard_of_test hr', ?_⟩
    have hcount : s'.laneCount = s.laneCount := h.values .laneCount (hreads _ rfl)
    have hflag : guardFlag s'.test.laneIndex s'.laneCount = guardFlag s.test.laneIndex s.laneCount := by
      rw [hcount, hu.laneIndex (hreads _ rfl)]
    rw [hflag]
    have := h.setTest (p := fun _ => false) (fun _ hp => by cases hp)
      ((hu.setInactive (guardFlag s.test.laneIndex s.laneCount)).mono fun r hr => hr.resolve_right Bool.false_ne_true)
    rw [State.markWritten_none, State.markWritten_none] at this
    exact this
  · rw [exec_pack_of_test hr] at hex
    injection hex with hex
    subst hex
    rw [exec_pack_of_test hr', h.inactive]
    cases hina : s.test.inactive with
    | true => exact ⟨_, rfl, h⟩
    | false =>
      rw [hina] at hreads
      have hD : s'.test.DIG = s.test.DIG := vector_ext fun k => hu.DIG k (hreads _ rfl)
      have hrec : s'.test.record = s.test.record := by
        rw [LaneUnit.record, hu.nonceLo (hreads _ rfl), hu.nonceHi (hreads _ rfl), hD, LaneUnit.record]
      refine ⟨_, rfl, ?_⟩
      simp only [Bool.false_eq_true, if_false, State.packRecord_congr _ (hu.laneIndex (hreads _ rfl)) hrec]
      obtain ⟨hpack, hkeeps⟩ := s.packRecord_withData s' s.test
      exact h.map (State.packRecord · s.test) hpack hkeeps
  · rw [exec_halt_of_test hr] at hex
    injection hex with hex
    subst hex
    exact ⟨_, exec_halt_of_test hr', h⟩

/-! ### A host access -/

theorem State.inactive_storeReg (s : State) (r : Reg) (v : Word) :
    (s.storeReg r v).test.inactive = s.test.inactive := by
  cases r <;> rfl

/-- A store puts the same word into the same register. -/
theorem AgreeOnWritten.storeReg (h : AgreeOnWritten s s') (r : Reg) (v : Word) :
    AgreeOnWritten (s.storeReg r v) (s'.storeReg r v) := by
  cases hr : r.isStored with
  | false => rwa [State.storeReg_of_not_isStored hr, State.storeReg_of_not_isStored hr]
  | true =>
    have hmarks : (s'.storeReg r v).unwritten = (s.storeReg r v).unwritten := by
      rw [State.unwritten_storeReg hr, State.unwritten_storeReg hr, h.marks]
    refine .of_mem hmarks ?_ ?_ fun q _ hq => ?_
    · rw [State.inactive_storeReg, State.inactive_storeReg, h.inactive]
    · have hs := s.storeReg_eq_with r v
      have hs' := s'.storeReg_eq_with r v
      generalize s.storeReg r v = t at hs hmarks
      generalize s'.storeReg r v = t' at hs' hmarks
      rw [hmarks, h.rest] at hs'
      rw [hs, hs']
      rfl
    · by_cases hqr : q = r
      · rw [hqr, State.regValue_storeReg_self hr, State.regValue_storeReg_self hr]
      · rw [State.regValue_storeReg_of_ne hqr, State.regValue_storeReg_of_ne hqr]
        exact h.values q fun hmem => hq ((State.mem_unwritten_storeReg hr v q).mpr ⟨hmem, hqr⟩)

/-- START reads LAUNCH_WIDTH and LANE_COUNT. -/
theorem State.start_withData {d : State} (hw : d.launchWidth = s.launchWidth) (hc : d.laneCount = s.laneCount) :
    (s.withData d).start = s.start.withData d ∧ s.KeepsData s.start := by
  have hact : (s.withData d).activeLanes = s.activeLanes := by
    simp only [State.activeLanes, State.withData, hw, hc]
  by_cases hfits : 10 * s.activeLanes ≤ s.params.resultsWords.val
  · rw [State.start_of_fits hfits, State.start_of_fits (s := s.withData d) (hact ▸ hfits)]
    refine ⟨?_, rfl, rfl⟩
    simp only [State.withData, hw]
  · have hsmall := Nat.not_le.mp hfits
    rw [State.start_of_tooSmall hsmall, State.start_of_tooSmall (s := s.withData d) (hact ▸ hsmall)]
    exact ⟨rfl, rfl, rfl⟩

theorem AgreeOnWritten.start (h : AgreeOnWritten s s') (hreads : s.unwritten.any Reg.isStartConfig = false) :
    AgreeOnWritten s.start s'.start := by
  have hread : ∀ r, r.isStartConfig = true → r ∉ s.unwritten := fun r hr hmem => by
    have := List.any_eq_false.mp hreads r hmem
    exact this hr
  have hwidth := h.values .launchWidth (hread _ rfl)
  have hcount := h.values .laneCount (hread _ rfl)
  obtain ⟨hstart, hkeeps⟩ := State.start_withData hwidth hcount
  exact h.map State.start hstart hkeeps

theorem AgreeOnWritten.runTestUop (h : AgreeOnWritten s s') {v : Word}
    (hreads : s.writeReadsUnspecified .testUop v = false) (hex : s.runTestUop v = .next t) :
    ∃ t', s'.runTestUop v = .next t' ∧ AgreeOnWritten t t' := by
  unfold State.runTestUop at hex ⊢
  unfold State.writeReadsUnspecified at hreads
  cases hv : decodeTestUop v with
  | legal op =>
    simp only [hv] at hex hreads ⊢
    refine (h.map (fun x => { x with running := .test }) rfl ⟨rfl, rfl⟩).exec_test rfl (fun r hr hmem => ?_) hex
    exact List.any_eq_false.mp hreads r hmem hr
  | illegal why =>
    simp only [hv] at hex ⊢
    injection hex with hex
    subst hex
    exact ⟨_, rfl, h.map (State.raise · errIllegalUop) rfl ⟨rfl, rfl⟩⟩

theorem AgreeOnWritten.hostWriteReg (h : AgreeOnWritten s s') {a : BitVec 8} {v : Word}
    (hreads : s.busy = false → s.writeReadsUnspecified (regAt a) v = false) (hex : s.hostWriteReg a v = .next t) :
    ∃ t', s'.hostWriteReg a v = .next t' ∧ AgreeOnWritten t t' := by
  have hbusy : s'.busy = s.busy := by rw [h.rest]
  by_cases hstatus : regAt a = .status
  · rw [State.hostWriteReg_status hstatus] at hex
    injection hex with hex
    subst hex
    exact ⟨_, State.hostWriteReg_status hstatus v, h.map (State.writeStatus · v) rfl ⟨rfl, rfl⟩⟩
  cases hb : s.busy with
  | true =>
    rw [State.hostWriteReg_busy hb hstatus] at hex
    injection hex with hex
    subst hex
    exact ⟨_, State.hostWriteReg_busy (hbusy.trans hb) hstatus v, h.map (State.raise · errHostWriteBusy) rfl ⟨rfl, rfl⟩⟩
  | false =>
    have hreads := hreads hb
    rw [State.hostWriteReg_idle hb hstatus] at hex
    rw [State.hostWriteReg_idle (hbusy.trans hb) hstatus]
    generalize regAt a = r at hreads hex
    unfold State.writeRegIdle at hex ⊢
    split at hex
    · injection hex with hex
      subst hex
      refine ⟨_, rfl, ?_⟩
      split
      · rename_i hv
        unfold State.writeReadsUnspecified at hreads
        simp only [hv, Bool.true_and] at hreads
        exact h.start hreads
      · exact h
    · exact h.runTestUop hreads hex
    · injection hex with hex
      subst hex
      exact ⟨_, rfl, h.storeReg _ v⟩

theorem AgreeOnWritten.hostReadReg (h : AgreeOnWritten s s') (a : BitVec 8) :
    AgreeOnWritten (s.hostReadReg a) (s'.hostReadReg a) := by
  have htick : s'.tick = s.tick := by rw [h.rest]
  unfold State.hostReadReg
  rw [h.marks, htick]
  split
  · exact h.map (State.reply · (Config.freeWord s.tick)) rfl ⟨rfl, rfl⟩
  · rename_i hr
    rw [h.values _ hr]
    exact h.map (State.reply · (s.regValue (regAt a))) rfl ⟨rfl, rfl⟩

/-- RES is read and written alike: neither access sees a data register. -/
theorem State.hostReadRes_withData (s d : State) (a : Nat) :
    (s.withData d).hostReadRes a = (s.hostReadRes a).withData d ∧ s.KeepsData (s.hostReadRes a) := by
  by_cases ha : a < s.params.resultsWords.val
  · rw [State.hostReadRes_inRange ha, State.hostReadRes_inRange (s := s.withData d) ha]
    exact ⟨rfl, rfl, rfl⟩
  · have hout := Nat.not_lt.mp ha
    rw [State.hostReadRes_outOfRange hout, State.hostReadRes_outOfRange (s := s.withData d) hout]
    exact ⟨rfl, rfl, rfl⟩

theorem State.hostWriteRes_withData (s d : State) (a : Nat) (v : Word) :
    (s.withData d).hostWriteRes a v = (s.hostWriteRes a v).withData d ∧ s.KeepsData (s.hostWriteRes a v) := by
  cases hb : s.busy with
  | true =>
    rw [State.hostWriteRes_busy hb, State.hostWriteRes_busy (s := s.withData d) hb]
    exact ⟨rfl, rfl, rfl⟩
  | false =>
    by_cases ha : a < s.params.resultsWords.val
    · rw [State.hostWriteRes_idle hb ha, State.hostWriteRes_idle (s := s.withData d) hb ha]
      exact ⟨rfl, rfl, rfl⟩
    · have hout := Nat.not_lt.mp ha
      rw [State.hostWriteRes_outOfRange hb hout, State.hostWriteRes_outOfRange (s := s.withData d) hb hout]
      exact ⟨rfl, rfl, rfl⟩

/-- A host access that makes the engine read no UNSPECIFIED register. -/
theorem AgreeOnWritten.hostEvent (h : AgreeOnWritten s s') {e : HostEvent}
    (hreads : ∀ a v, e = .writeReg a v → s.busy = false → s.writeReadsUnspecified (regAt a) v = false)
    (hex : s.hostEvent e = .next t) : ∃ t', s'.hostEvent e = .next t' ∧ AgreeOnWritten t t' := by
  cases e with
  | writeReg a v => exact h.hostWriteReg (hreads a v rfl) hex
  | readReg a =>
    injection hex with hex
    exact ⟨_, rfl, hex ▸ h.hostReadReg a⟩
  | readRes a =>
    injection hex with hex
    obtain ⟨hread, hkeeps⟩ := s.hostReadRes_withData s' a
    exact ⟨_, rfl, hex ▸ h.map (State.hostReadRes · a) hread hkeeps⟩
  | writeRes a v =>
    injection hex with hex
    obtain ⟨hwrite, hkeeps⟩ := s.hostWriteRes_withData s' a v
    exact ⟨_, rfl, hex ▸ h.map (State.hostWriteRes · a v) hwrite hkeeps⟩
  | reset =>
    injection hex with hex
    have hreset : s'.resetEngine = s.resetEngine := by rw [h.rest]; rfl
    refine ⟨_, rfl, ?_⟩
    rw [hreset, hex]
    exact .refl t

end Sys2Proof.Machine
end

section
/-! The strict step (rule R213): where it faults, and that elsewhere UNSPECIFIED registers have no effect. -/
namespace Sys2Proof.Machine

variable {s s' t : State}

/-! ### Where it faults -/

theorem strictStep_fault_of_host {e : HostEvent} {rest : List HostEvent} (hb : s.busy = false)
    (hi : s.inbox = e :: rest) (h : s.hostReadsUnspecified = true) : strictStep s = .fault .unspecifiedRead :=
  strictStep_of_reads ((State.readsUnspecified_host (by rw [State.pick_idle hb, hi]; rfl)).trans h)

theorem strictStep_fault_of_start {v : Word} {rest : List HostEvent} (hb : s.busy = false)
    (hi : s.inbox = .writeReg 0x00 v :: rest) (hv : v.getLsbD 0 = true)
    (hr : Reg.launchWidth ∈ s.unwritten ∨ Reg.laneCount ∈ s.unwritten) : strictStep s = .fault .unspecifiedRead := by
  have hany : s.unwritten.any Reg.isStartConfig = true :=
    List.any_eq_true.mpr (hr.elim (⟨_, ·, rfl⟩) (⟨_, ·, rfl⟩))
  have hreads : s.writeReadsUnspecified (regAt 0x00) v = true := by
    rw [show regAt 0x00 = .ctrl from rfl, State.writeReadsUnspecified, hv, hany, Bool.true_and]
  refine strictStep_fault_of_host hb hi ?_
  rw [State.hostReadsUnspecified_write hi, hb, hreads]
  rfl

theorem strictStep_fault_of_testUop {v : Word} {rest : List HostEvent} {i : Instr} {r : Reg} (hb : s.busy = false)
    (hi : s.inbox = .writeReg 0x04 v :: rest) (hv : decodeTestUop v = .legal i) (hr : r ∈ s.unwritten)
    (hreads : Instr.reads s.test.inactive i r = true) : strictStep s = .fault .unspecifiedRead := by
  have hreads : s.writeReadsUnspecified (regAt 0x04) v = true := by
    rw [show regAt 0x04 = .testUop from rfl, State.writeReadsUnspecified, hv]
    exact List.any_eq_true.mpr ⟨r, hr, hreads⟩
  refine strictStep_fault_of_host hb hi ?_
  rw [State.hostReadsUnspecified_write hi, hb, hreads]
  rfl

theorem strictStep_fault_of_lane {i : Word} {l : LaneExec} {w : UopWord} {op : Instr} {r : Reg}
    (hpick : s.pick = some (.lane i)) (hl : s.lane? i = some l) (hw : microprogram[l.upc.toNat]? = some w)
    (hd : decode w = .legal op) (hr : r ∈ s.unwritten) (hconfig : r.isLaneConfig = true)
    (hreads : Instr.reads false op r = true) : strictStep s = .fault .unspecifiedRead := by
  have hrom : (romWord l.upc).map decode = some (.legal op) := by
    rw [romWord, hw, Option.map_some, hd]
  refine strictStep_of_reads ((State.readsUnspecified_lane hpick).trans ?_)
  rw [State.laneReadsUnspecified_of_rom hl hrom]
  exact List.any_eq_true.mpr ⟨r, hr, by rw [hconfig, hreads]; rfl⟩

/-! ### Where it does not -/

/-- A lane step that reads no UNSPECIFIED configuration word. -/
theorem AgreeOnWritten.laneStep (h : AgreeOnWritten s s') {i : Word} (hreads : s.laneReadsUnspecified i = false)
    (hex : s.laneStep i = .next t) : ∃ t', s'.laneStep i = .next t' ∧ AgreeOnWritten t t' := by
  obtain ⟨l, op, hl, hop, hexec⟩ := State.laneStep_next_exec hex
  rw [State.laneReadsUnspecified_of_rom hl hop] at hreads
  have hread : ∀ r, r.isLaneConfig = true → Instr.reads false op r = true → r ∉ s.unwritten := fun r hc hr hmem => by
    have := List.any_eq_false.mp hreads r hmem
    rw [hc, hr] at this
    exact this rfl
  have hl' : s'.lane? i = some l := by rw [h.rest]; exact hl
  have hrun : ({ s' with running := .lane i } : State) = State.withData { s with running := .lane i } s' := by
    conv_lhs => rw [h.rest]
    rfl
  obtain ⟨hexec', hkeeps⟩ := exec_withData_of_lane (s := { s with running := .lane i }) (d := s') rfl
    (fun hr => h.values .laneCount (hread _ rfl hr)) (fun hr => h.values .baseNonceLo (hread _ rfl hr))
    (fun hr => h.values .baseNonceHi (hread _ rfl hr)) hexec
  refine ⟨t.withData s', ?_, h.withData hkeeps⟩
  rw [← hexec', ← hrun]
  unfold State.laneStep
  simp only [hl', hop]

theorem AgreeOnWritten.writeReadsUnspecified_eq (h : AgreeOnWritten s s') (r : Reg) (v : Word) :
    s'.writeReadsUnspecified r v = s.writeReadsUnspecified r v := by
  simp only [State.writeReadsUnspecified, h.marks, h.inactive]

/-- Whether a step reads an UNSPECIFIED register does not depend on what it holds. -/
theorem AgreeOnWritten.readsUnspecified_eq (h : AgreeOnWritten s s') : s'.readsUnspecified = s.readsUnspecified := by
  have hpick : s'.pick = s.pick := by rw [h.rest]; rfl
  have hlane : ∀ i, s'.laneReadsUnspecified i = s.laneReadsUnspecified i := fun i => by rw [h.rest]; rfl
  have hhost : s'.hostReadsUnspecified = s.hostReadsUnspecified := by
    have hinbox : s'.inbox = s.inbox := by rw [h.rest]
    have hbusy : s'.busy = s.busy := by rw [h.rest]
    simp only [State.hostReadsUnspecified, hinbox, hbusy, h.writeReadsUnspecified_eq]
  simp only [State.readsUnspecified, hpick, hlane, hhost]

/-- The step of any agent that reads no UNSPECIFIED register. -/
theorem AgreeOnWritten.step (h : AgreeOnWritten s s') (hreads : s.readsUnspecified = false)
    (hex : Machine.step s = .next t) : ∃ t', Machine.step s' = .next t' ∧ AgreeOnWritten t t' := by
  have hpick' : s'.pick = s.pick := by rw [h.rest]; rfl
  have htick : AgreeOnWritten s.nextTick s'.nextTick := h.map State.nextTick rfl ⟨rfl, rfl⟩
  cases hpick : s.pick with
  | none =>
    rw [step_of_idle hpick] at hex
    injection hex with hex
    exact ⟨s', step_of_idle (hpick'.trans hpick), hex ▸ h⟩
  | some a =>
    rw [step_of_pick hpick] at hex
    rw [step_of_pick (hpick'.trans hpick)]
    cases a with
    | host =>
      have hinbox : s'.inbox = s.inbox := by rw [h.rest]
      rw [State.readsUnspecified_host hpick] at hreads
      unfold State.agentStep State.hostStep at hex ⊢
      rw [State.nextTick_inbox] at hex ⊢
      rw [hinbox]
      cases hi : s.inbox with
      | nil =>
        simp only [hi] at hex ⊢
        injection hex with hex
        exact ⟨_, rfl, hex ▸ htick⟩
      | cons e rest =>
        simp only [hi] at hex ⊢
        have hpop := htick.map (fun x => { x with inbox := rest }) rfl ⟨rfl, rfl⟩
        refine hpop.hostEvent (fun a v he hb => ?_) hex
        subst he
        rw [State.hostReadsUnspecified_write hi, show s.busy = false from hb] at hreads
        exact hreads
    | controller =>
      injection hex with hex
      exact ⟨_, rfl, hex ▸ htick.map State.complete rfl ⟨rfl, rfl⟩⟩
    | lane i =>
      rw [State.readsUnspecified_lane hpick] at hreads
      exact htick.laneStep hreads hex

/-- Settles O60: three kinds of step fault, any other is the step, which does the same from two such states. -/
theorem unspecifiedValuesDoNotMatter : Obligations.UnspecifiedValuesDoNotMatter := by
  refine ⟨fun s v rest => strictStep_fault_of_start, fun s v rest i r => strictStep_fault_of_testUop,
    fun s i l w op r => strictStep_fault_of_lane, fun s t h => (strictStep_next h).2, fun s s' t h hreads hex => ?_⟩
  obtain ⟨t', hex', hagree⟩ := h.step hreads hex
  refine ⟨t', (strictStep_of_clean hreads).trans hex, ?_, hex', hagree⟩
  exact (strictStep_of_clean (h.readsUnspecified_eq.trans hreads)).trans hex'

end Sys2Proof.Machine
end
